-- ==== Sys2Proof/Word.lean ====
section
/-! DEFINITION. The widths of the PS/2 receiver block and the plainest operations on them
(spec/00_scope.md R10, R11): a byte has 8 bits, a frame has 11, and every value is unsigned. -/

namespace Sys2Proof

/-- One bit. A line level is a bit with 1 (`true`) = HIGH (R71); a flag is set when `true`. -/
abbrev Bit := Bool

/-- A scan byte, a ROM word, a key id: 8 bits (R10, R79). -/
abbrev Byte := BitVec 8

/-- The frame word F: 11 bits in sampling order (R72). -/
abbrev FrameWord := BitVec 11

/-- The transition word T = {samp_state[3:0], L[1], L[0]}: 6 bits (R76). -/
abbrev TransitionWord := BitVec 6

/-- The input word {rst, cancel, clk, data} of a step: 4 bits (R89). -/
abbrev InputWord := BitVec 4

/-- A 4-bit sampler state code (R74). -/
abbrev StateCode := BitVec 4

/-- One bit as a word of width 1, for concatenations {a, b} with a more significant (R11). -/
abbrev bitWord (b : Bit) : BitVec 1 := BitVec.ofBool b

end Sys2Proof
end

