-- ==== Sys2Proof/Syntax.lean ====
section
/-! DEFINITION. Everything the block decodes, as syntax: the samples of the lines and the control inputs,
the sampler's states, the four formats of coded word, and the ONE inductive `Instr` with a constructor for each
row of spec/opcode_table.json (spec/30_encoding.md R70 to R77, R89). -/

namespace Sys2Proof

/-- The line sample L of one step: the levels of the two lines, 1 = HIGH (R70, R71). -/
structure Line where
  clk : Bit
  data : Bit
deriving DecidableEq, Repr, Inhabited

/-- The input of one step, in = {clk, data, rst, cancel} (R14, R89). -/
structure Input where
  rst : Bit
  cancel : Bit
  clk : Bit
  data : Bit
deriving DecidableEq, Repr, Inhabited

/-- The input ports over one cycle of the system clock, before the synchronizers (R38). -/
structure Pins where
  /-- `tick_i`, the poll strobe. -/
  tick : Bit
  /-- `rst_i`. -/
  rst : Bit
  /-- `cancel_i`. -/
  cancel : Bit
  /-- `ps2_clk_i`. -/
  ps2Clk : Bit
  /-- `ps2_data_i`. -/
  ps2Data : Bit
deriving DecidableEq, Repr, Inhabited

/-- One item of what the outside world does to the block: a poll with the synchronized input of R14, or one cycle
of the system clock at the pins of R38. -/
inductive Stimulus where
  | poll (i : Input)
  | cycle (p : Pins)
deriving DecidableEq, Repr

/-- The ten legal values of `samp_state` (R21, R74). The reserved codes have no constructor (R75). -/
inductive SampState where
  /-- WAIT_START_LOW, code 0x0 -/
  | wsl
  /-- WAIT_START_HIGH, code 0x1 -/
  | wsh
  /-- WAIT_BIT_LOW, code 0x2 -/
  | wbl
  /-- WAIT_BIT_HIGH, code 0x3 -/
  | wbh
  /-- WAIT_PAR_LOW, code 0x4 -/
  | wpl
  /-- WAIT_PAR_HIGH, code 0x5 -/
  | wph
  /-- WAIT_STOP_LOW, code 0x6 -/
  | wtl
  /-- GAP, code 0x7 -/
  | gap
  /-- RESYNC, code 0x8 -/
  | rsy
  /-- HALTED, code 0x9 -/
  | hlt
deriving DecidableEq, Repr

/-- PRESS or RELEASE (R84, R159). -/
inductive Direction where
  | press
  | release
deriving DecidableEq, Repr

/-- The two ROM address spaces (R50). -/
inductive Namespace where
  | base
  | ext
deriving DecidableEq, Repr

/-- The four formats of word the block decodes (R70, R72, R76, R77, R89; the `format` column of the table). -/
inductive Code where
  | transition (t : TransitionWord)
  | frame (f : FrameWord)
  | scanByte (b : Byte)
  | control (w : InputWord)
deriving DecidableEq, Repr

/-- The decoder's reasons to refuse a word, by name. -/
inductive DecodeError where
  /-- `samp_state` codes 0xA to 0xF are reserved (R75). -/
  | reservedStateCode
  /-- An input word with rst = 0 and cancel = 0 is a plain sample `S cd`, and is no control row (R89). -/
  | noControlAsserted
  /-- A table word with more bits than any format has. -/
  | wordTooLong
deriving DecidableEq, Repr

/-- The three classes of a frame word, each with the bits its match leaves free (R73). -/
inductive FrameClass where
  | valid (parity : Bit) (value : Byte)
  | badStart (stop parity : Bit) (value : Byte)
  | badStop (parity : Bit) (value : Byte)
deriving DecidableEq, Repr

/-- The four classes of a scan byte (R77). -/
inductive ByteClass where
  | ext
  | pause
  | brk
  | terminal (b : Byte)
deriving DecidableEq, Repr

/-- One constructor per row of spec/opcode_table.json, in the table's order, with the bits that the row's mask
leaves free as operands. -/
inductive Instr where
  /-- WSL.CLK_LOW (R101) -/
  | wslClkLow (data : Bit)
  /-- WSL.CLK_HIGH (R101) -/
  | wslClkHigh (data : Bit)
  /-- WSH.CLK_HIGH (R102) -/
  | wshClkHigh (data : Bit)
  /-- WSH.CLK_LOW (R102) -/
  | wshClkLow (data : Bit)
  /-- WBL.CLK_LOW (R103) -/
  | wblClkLow (data : Bit)
  /-- WBL.CLK_HIGH (R103) -/
  | wblClkHigh (data : Bit)
  /-- WBH.CLK_HIGH (R104) -/
  | wbhClkHigh (data : Bit)
  /-- WBH.CLK_LOW (R104) -/
  | wbhClkLow (data : Bit)
  /-- WPL.CLK_LOW (R105) -/
  | wplClkLow (data : Bit)
  /-- WPL.CLK_HIGH (R105) -/
  | wplClkHigh (data : Bit)
  /-- WPH.CLK_HIGH (R106) -/
  | wphClkHigh (data : Bit)
  /-- WPH.CLK_LOW (R106) -/
  | wphClkLow (data : Bit)
  /-- WTL.CLK_LOW (R107) -/
  | wtlClkLow (data : Bit)
  /-- WTL.CLK_HIGH (R107) -/
  | wtlClkHigh (data : Bit)
  /-- GAP.ANY (R108) -/
  | gapAny (clk data : Bit)
  /-- RSY.IDLE (R140) -/
  | rsyIdle
  /-- RSY.CLK_LOW (R140) -/
  | rsyClkLow (data : Bit)
  /-- RSY.CLK_HIGH_DATA_LOW (R140) -/
  | rsyClkHighDataLow
  /-- HLT.ANY (R109) -/
  | hltAny (clk data : Bit)
  /-- FRAME_VALID (R73, R131) -/
  | frameValid (parity : Bit) (value : Byte)
  /-- FRAME_BAD_START (R73, R131) -/
  | frameBadStart (stop parity : Bit) (value : Byte)
  /-- FRAME_BAD_STOP (R73, R131) -/
  | frameBadStop (parity : Bit) (value : Byte)
  /-- PFX_EXT, byte 0xE0 (R151) -/
  | pfxExt
  /-- PFX_PAUSE, byte 0xE1 (R152) -/
  | pfxPause
  /-- PFX_BREAK, byte 0xF0 (R153) -/
  | pfxBreak
  /-- TERMINAL, any other byte (R154) -/
  | terminal (b : Byte)
  /-- RESET (R230); the other three input bits are ignored -/
  | reset (cancel clk data : Bit)
  /-- CANCEL (R212); the line sample is ignored -/
  | cancel (clk data : Bit)
deriving DecidableEq, Repr

end Sys2Proof
end

