-- ==== Sys2Proof/WellFormed.lean ====
section
/-! DEFINITION. Which terms of `Instr` stand for a word of the table. One check is not already in the types:
TERMINAL holds "any other byte" than the three prefixes (spec/30_encoding.md R77). -/

namespace Sys2Proof

/-- The prefix bytes 0xE0, 0xE1 and 0xF0 (R17, R77). -/
def isPrefix (b : Byte) : Bool := b == 0xE0#8 || b == 0xE1#8 || b == 0xF0#8

/-- The term stands for a word of its row: a TERMINAL byte is no prefix byte (R77). -/
def Instr.wf : Instr → Bool
  | .terminal b => !isPrefix b
  | .wslClkLow _ | .wslClkHigh _ | .wshClkHigh _ | .wshClkLow _ | .wblClkLow _ | .wblClkHigh _ => true
  | .wbhClkHigh _ | .wbhClkLow _ | .wplClkLow _ | .wplClkHigh _ | .wphClkHigh _ | .wphClkLow _ => true
  | .wtlClkLow _ | .wtlClkHigh _ | .gapAny _ _ | .rsyIdle | .rsyClkLow _ | .rsyClkHighDataLow => true
  | .hltAny _ _ | .frameValid _ _ | .frameBadStart _ _ _ | .frameBadStop _ _ => true
  | .pfxExt | .pfxPause | .pfxBreak | .reset _ _ _ | .cancel _ _ => true

end Sys2Proof
end

