-- ==== Sys2Proof/Decode.lean ====
section
/-! DEFINITION. Decoding of the four formats of word, total and refusing by name, then the encoder, both written
from spec/30_encoding.md R70 to R77 and R89 and from the rows of spec/opcode_table.json. -/

namespace Sys2Proof

/-! ### Sampler state codes -/

/-- The 4-bit code of a sampler state (R74). -/
def SampState.code : SampState → StateCode
  | .wsl => 0x0#4
  | .wsh => 0x1#4
  | .wbl => 0x2#4
  | .wbh => 0x3#4
  | .wpl => 0x4#4
  | .wph => 0x5#4
  | .wtl => 0x6#4
  | .gap => 0x7#4
  | .rsy => 0x8#4
  | .hlt => 0x9#4

/-- The state of a 4-bit code; 0xA to 0xF are reserved (R74, R75). -/
def SampState.ofCode (c : StateCode) : Option SampState :=
  match c.toNat with
  | 0 => some .wsl
  | 1 => some .wsh
  | 2 => some .wbl
  | 3 => some .wbh
  | 4 => some .wpl
  | 5 => some .wph
  | 6 => some .wtl
  | 7 => some .gap
  | 8 => some .rsy
  | 9 => some .hlt
  | _ => none

/-! ### Words put together from their fields -/

/-- T = {samp_state[3:0], L[1], L[0]} with L[1] = clk and L[0] = data (R70, R76). -/
def transitionWord (st : SampState) (l : Line) : TransitionWord :=
  st.code ++ bitWord l.clk ++ bitWord l.data

/-- F = {stop, parity, data[7:0], start} (R72). -/
def frameWordOf (start : Bit) (value : Byte) (parity stop : Bit) : FrameWord :=
  bitWord stop ++ bitWord parity ++ value ++ bitWord start

/-- The input word {rst, cancel, clk, data} (R89). -/
def Input.word (i : Input) : InputWord :=
  bitWord i.rst ++ bitWord i.cancel ++ bitWord i.clk ++ bitWord i.data

/-- The input that a 4-bit input word spells (R89). -/
def Input.ofWord (w : InputWord) : Input :=
  { rst := w.getLsbD 3, cancel := w.getLsbD 2, clk := w.getLsbD 1, data := w.getLsbD 0 }

/-- F[8:1], the byte of a frame word (R72, R130). -/
def frameByte (f : FrameWord) : Byte := f.extractLsb' 1 8

/-! ### The classes -/

/-- The row of a (state, sample) pair: CLK_LOW is L[1] = 0, CLK_HIGH is L[1] = 1, IDLE is L = 0b11 (R71, R76). -/
def transitionInstr (st : SampState) (l : Line) : Instr :=
  match st, l.clk with
  | .wsl, false => .wslClkLow l.data
  | .wsl, true => .wslClkHigh l.data
  | .wsh, true => .wshClkHigh l.data
  | .wsh, false => .wshClkLow l.data
  | .wbl, false => .wblClkLow l.data
  | .wbl, true => .wblClkHigh l.data
  | .wbh, true => .wbhClkHigh l.data
  | .wbh, false => .wbhClkLow l.data
  | .wpl, false => .wplClkLow l.data
  | .wpl, true => .wplClkHigh l.data
  | .wph, true => .wphClkHigh l.data
  | .wph, false => .wphClkLow l.data
  | .wtl, false => .wtlClkLow l.data
  | .wtl, true => .wtlClkHigh l.data
  | .gap, c => .gapAny c l.data
  | .rsy, false => .rsyClkLow l.data
  | .rsy, true => if l.data then .rsyIdle else .rsyClkHighDataLow
  | .hlt, c => .hltAny c l.data

/-- The class of a frame word, by F[0] and F[10] alone (R73). -/
def classifyFrame (f : FrameWord) : FrameClass :=
  if f.getLsbD 0 then .badStart (f.getLsbD 10) (f.getLsbD 9) (frameByte f)
  else if f.getLsbD 10 then .valid (f.getLsbD 9) (frameByte f)
  else .badStop (f.getLsbD 9) (frameByte f)

/-- The class of a scan byte, the first match in priority order (R77, R150). -/
def classifyByte (b : Byte) : ByteClass :=
  if b = 0xE0#8 then .ext
  else if b = 0xE1#8 then .pause
  else if b = 0xF0#8 then .brk
  else .terminal b

/-- The row of a frame class. -/
def FrameClass.instr : FrameClass → Instr
  | .valid parity value => .frameValid parity value
  | .badStart stop parity value => .frameBadStart stop parity value
  | .badStop parity value => .frameBadStop parity value

/-- The row of a byte class. -/
def ByteClass.instr : ByteClass → Instr
  | .ext => .pfxExt
  | .pause => .pfxPause
  | .brk => .pfxBreak
  | .terminal b => .terminal b

/-- RESET when rst = 1, CANCEL when rst = 0 and cancel = 1 (R100, R210; the table's `priority`). -/
def controlInstr (i : Input) : Option Instr :=
  if i.rst then some (.reset i.cancel i.clk i.data)
  else if i.cancel then some (.cancel i.clk i.data)
  else none

/-! ### Decoding -/

/-- A transition word decodes by its state code and its sample (R76); a reserved code is refused by name (R75). -/
def decodeTransition (t : TransitionWord) : Except DecodeError Instr :=
  match SampState.ofCode (t.extractLsb' 2 4) with
  | some st => .ok (transitionInstr st { clk := t.getLsbD 1, data := t.getLsbD 0 })
  | none => .error .reservedStateCode

/-- An input word decodes to a control row, or is refused as a plain sample. -/
def decodeControl (w : InputWord) : Except DecodeError Instr :=
  match controlInstr (Input.ofWord w) with
  | some i => .ok i
  | none => .error .noControlAsserted

/-- THE DECODER: total on every word of every format. -/
def decode : Code → Except DecodeError Instr
  | .transition t => decodeTransition t
  | .frame f => .ok (classifyFrame f).instr
  | .scanByte b => .ok (classifyByte b).instr
  | .control w => decodeControl w

/-! ### Encoding -/

/-- THE ENCODER: the word of an instruction, from the `match` of its row and its operand bits. -/
def encode : Instr → Code
  | .wslClkLow d => .transition (0b00000#5 ++ bitWord d)
  | .wslClkHigh d => .transition (0b00001#5 ++ bitWord d)
  | .wshClkHigh d => .transition (0b00011#5 ++ bitWord d)
  | .wshClkLow d => .transition (0b00010#5 ++ bitWord d)
  | .wblClkLow d => .transition (0b00100#5 ++ bitWord d)
  | .wblClkHigh d => .transition (0b00101#5 ++ bitWord d)
  | .wbhClkHigh d => .transition (0b00111#5 ++ bitWord d)
  | .wbhClkLow d => .transition (0b00110#5 ++ bitWord d)
  | .wplClkLow d => .transition (0b01000#5 ++ bitWord d)
  | .wplClkHigh d => .transition (0b01001#5 ++ bitWord d)
  | .wphClkHigh d => .transition (0b01011#5 ++ bitWord d)
  | .wphClkLow d => .transition (0b01010#5 ++ bitWord d)
  | .wtlClkLow d => .transition (0b01100#5 ++ bitWord d)
  | .wtlClkHigh d => .transition (0b01101#5 ++ bitWord d)
  | .gapAny c d => .transition (0b0111#4 ++ bitWord c ++ bitWord d)
  | .rsyIdle => .transition 0b100011#6
  | .rsyClkLow d => .transition (0b10000#5 ++ bitWord d)
  | .rsyClkHighDataLow => .transition 0b100010#6
  | .hltAny c d => .transition (0b1001#4 ++ bitWord c ++ bitWord d)
  | .frameValid p v => .frame (0b1#1 ++ bitWord p ++ v ++ 0b0#1)
  | .frameBadStart t p v => .frame (bitWord t ++ bitWord p ++ v ++ 0b1#1)
  | .frameBadStop p v => .frame (0b0#1 ++ bitWord p ++ v ++ 0b0#1)
  | .pfxExt => .scanByte 0xE0#8
  | .pfxPause => .scanByte 0xE1#8
  | .pfxBreak => .scanByte 0xF0#8
  | .terminal b => .scanByte b
  | .reset k c d => .control (0b1#1 ++ bitWord k ++ bitWord c ++ bitWord d)
  | .cancel c d => .control (0b01#2 ++ bitWord c ++ bitWord d)

/-! ### The opcode table itself -/

/-- The `format` column of the table. -/
inductive Format where
  | transition
  | frame11
  | scanByte
  | control
deriving DecidableEq, Repr

/-- One row of the table: its format, its mask and the value its masked bits must have. -/
structure Row where
  format : Format
  mask : Nat
  value : Nat
deriving DecidableEq, Repr

/-- The row of each instruction, copied from spec/opcode_table.json (`match` and `mask`). -/
def Instr.row : Instr → Row
  | .wslClkLow _ => ⟨.transition, 0b111110, 0b000000⟩
  | .wslClkHigh _ => ⟨.transition, 0b111110, 0b000010⟩
  | .wshClkHigh _ => ⟨.transition, 0b111110, 0b000110⟩
  | .wshClkLow _ => ⟨.transition, 0b111110, 0b000100⟩
  | .wblClkLow _ => ⟨.transition, 0b111110, 0b001000⟩
  | .wblClkHigh _ => ⟨.transition, 0b111110, 0b001010⟩
  | .wbhClkHigh _ => ⟨.transition, 0b111110, 0b001110⟩
  | .wbhClkLow _ => ⟨.transition, 0b111110, 0b001100⟩
  | .wplClkLow _ => ⟨.transition, 0b111110, 0b010000⟩
  | .wplClkHigh _ => ⟨.transition, 0b111110, 0b010010⟩
  | .wphClkHigh _ => ⟨.transition, 0b111110, 0b010110⟩
  | .wphClkLow _ => ⟨.transition, 0b111110, 0b010100⟩
  | .wtlClkLow _ => ⟨.transition, 0b111110, 0b011000⟩
  | .wtlClkHigh _ => ⟨.transition, 0b111110, 0b011010⟩
  | .gapAny _ _ => ⟨.transition, 0b111100, 0b011100⟩
  | .rsyIdle => ⟨.transition, 0b111111, 0b100011⟩
  | .rsyClkLow _ => ⟨.transition, 0b111110, 0b100000⟩
  | .rsyClkHighDataLow => ⟨.transition, 0b111111, 0b100010⟩
  | .hltAny _ _ => ⟨.transition, 0b111100, 0b100100⟩
  | .frameValid _ _ => ⟨.frame11, 0x401, 0x400⟩
  | .frameBadStart _ _ _ => ⟨.frame11, 0x001, 0x001⟩
  | .frameBadStop _ _ => ⟨.frame11, 0x401, 0x000⟩
  | .pfxExt => ⟨.scanByte, 0xFF, 0xE0⟩
  | .pfxPause => ⟨.scanByte, 0xFF, 0xE1⟩
  | .pfxBreak => ⟨.scanByte, 0xFF, 0xF0⟩
  | .terminal _ => ⟨.scanByte, 0x00, 0x00⟩
  | .reset _ _ _ => ⟨.control, 0b1000, 0b1000⟩
  | .cancel _ _ => ⟨.control, 0b1100, 0b0100⟩

/-- The nineteen transition rows of the table, in its order. -/
def transitionRows : List Row :=
  [Instr.wslClkLow false, .wslClkHigh false, .wshClkHigh false, .wshClkLow false, .wblClkLow false,
   .wblClkHigh false, .wbhClkHigh false, .wbhClkLow false, .wplClkLow false, .wplClkHigh false,
   .wphClkHigh false, .wphClkLow false, .wtlClkLow false, .wtlClkHigh false, .gapAny false false,
   .rsyIdle, .rsyClkLow false, .rsyClkHighDataLow, .hltAny false false].map Instr.row

/-- The format of a coded word and its value as a number. -/
def Code.formatValue : Code → Format × Nat
  | .transition t => (.transition, t.toNat)
  | .frame f => (.frame11, f.toNat)
  | .scanByte b => (.scanByte, b.toNat)
  | .control w => (.control, w.toNat)

/-- A word matches a row: same format, and its masked bits are the row's value. -/
def Row.matchesCode (r : Row) (c : Code) : Bool :=
  r.format == c.formatValue.1 && (c.formatValue.2 &&& r.mask) == r.value

/-! ### The host's numbering of words -/

/-- Which format a table word of a given length is read in. A control word has 4 bits, a transition word 6, a scan
byte 8 and a frame word 11; the hardware stores none of them, so where only whole bytes are told, an 8-bit word that
is a legal transition word (0x00 to 0x27, R76) is read as one and any other as a scan byte (log entry 8). -/
def tableCode (nbits w : Nat) : Except DecodeError Code :=
  if nbits ≤ 4 then .ok (.control (BitVec.ofNat 4 w))
  else if nbits ≤ 6 then .ok (.transition (BitVec.ofNat 6 w))
  else if nbits ≤ 8 then
    if w < 0x28 then .ok (.transition (BitVec.ofNat 6 w)) else .ok (.scanByte (BitVec.ofNat 8 w))
  else if nbits ≤ 16 ∧ w < 0x800 then .ok (.frame (BitVec.ofNat 11 w))
  else .error .wordTooLong

/-- The instruction the decoder reads from a table word. -/
def decodeTableWord (nbits w : Nat) : Option Instr :=
  match tableCode nbits w with
  | .ok c => (decode c).toOption
  | .error _ => none

end Sys2Proof
end

