-- ==== Sys2Proof/Config.lean ====
section
/-! DEFINITION. What an integrator fixes before the first step (spec/00_scope.md R8, spec/10_state.md R40), and the
values the spec leaves open, as constants without a body: nothing can evaluate them, so a claim holds whatever they
are. -/

namespace Sys2Proof

/-- A ROM of 256 words of 8 bits (R50), as the list of the addresses that hold a non-zero word. Its canonical form
is `Machine.Rom.wf`. -/
abbrev Rom := List Host.Cell

/-- `KEY_NAMES`: the key ids that have a name, each with its name (R80). -/
abbrev KeyNames := List (Byte × String)

/-- The configuration parameters of R8. -/
structure Cfg where
  /-- `P_START_TIMEOUT` -/
  startTimeout : Nat
  /-- `P_RESYNC_TIMEOUT` -/
  resyncTimeout : Nat
  /-- `P_GAP` -/
  gap : Nat
  /-- `P_POLL_DIV` (RTL only) -/
  pollDiv : Nat
  /-- `P_SYNC_STAGES` (RTL only) -/
  syncStages : Nat
  /-- `BASE_ROM` -/
  baseRom : Rom
  /-- `EXT_ROM` -/
  extRom : Rom
  /-- `KEY_NAMES` -/
  keyNames : KeyNames
deriving DecidableEq, Repr, Inhabited

/-- What the payload output ports of R39 read. -/
structure Payload where
  frameWord : FrameWord
  frameByte : Byte
  frameValid : Bit
  frameParityOk : Bit
  resyncOk : Bit
  keyId : Byte
  keyCode : Byte
  keyRelease : Bit
  keyExtended : Bit
  rawLen : BitVec 4
  rawBytes : Vector Byte 9
deriving DecidableEq, Repr, Inhabited

/-- OPEN: the configuration the integrator chose (R8, spec/92_eei_decisions.md "Open parameters"). The spec gives no
value for the hardware's; log entry 2. -/
opaque Config.rawCfg : Cfg

/-- FREE: the synchronized input of a poll that the model's list of stimuli says nothing about, "one free input
sample per step, under no law" (R7); log entry 3. -/
opaque Config.freeInput : Nat → Input

/-- FREE: what the payload ports read while no strobe makes them valid (R39 gives them a meaning only "while it is
high"); log entry 4. -/
opaque Config.freePayload : Nat → Payload

end Sys2Proof
end

