-- ==== Sys2Proof/Machine/Tables.lean ====
section
/-! DEFINITION. The two scan-code ROMs and the key names (spec/20_memory.md R50 to R61, spec/44_scan_code_tables.md,
spec/30_encoding.md R79 to R81, R87), the check of a configuration (R9), and the reference contents. -/

namespace Sys2Proof.Machine

/-! ### A ROM as data -/

/-- What an address that the list does not name reads as: "Every other address ... holds 0x00" (R184, R185). -/
def Rom.unlisted : Byte := 0x00#8

/-- The word at a numbered address. -/
def Rom.get : Rom → Nat → Byte
  | [], _ => Rom.unlisted
  | c :: r, a => if c.1 = a then c.2 else Rom.get r a

/-- One whole 8-bit word at one 8-bit address; every address is valid (R50, R55). -/
def Rom.read (r : Rom) (a : Byte) : Byte := Rom.get r a.toNat

/-- Every listed address lies above `lo`, and the addresses strictly rise. -/
def Rom.rising : Option Nat → Rom → Bool
  | _, [] => true
  | none, c :: r => Rom.rising (some c.1) r
  | some lo, c :: r => decide (lo < c.1) && Rom.rising (some c.1) r

/-- The canonical form: addresses strictly rise and lie in 0x00 to 0xFF (R50), and no word equals what an unlisted
address reads as. -/
def Rom.wf (r : Rom) : Bool :=
  Rom.rising none r && r.all fun c => decide (c.1 < 256) && c.2 != Rom.unlisted

/-- Take an address out of the list. -/
def Rom.clear : Rom → Nat → Rom
  | [], _ => []
  | c :: r, a => if c.1 = a then r else c :: Rom.clear r a

/-- Put a word at an address, in its place in the rising order. -/
def Rom.insert : Rom → Nat → Byte → Rom
  | [], a, w => [(a, w)]
  | c :: r, a, w =>
    if a < c.1 then (a, w) :: c :: r
    else if c.1 = a then (a, w) :: r
    else c :: Rom.insert r a w

/-- The addresses 0xE0, 0xE1 and 0xF0, whose words "are never read" (R183). -/
def Rom.neverRead (a : Nat) : Bool := isPrefix (BitVec.ofNat 8 a)

/-- The integrator's programming of one word before the first step (R16, R233). No step of the block calls it: the
block "has no write port" (R53). -/
def Rom.program (r : Rom) (a w : Byte) : Rom :=
  if w = Rom.unlisted then Rom.clear r a.toNat else Rom.insert r a.toNat w

end Sys2Proof.Machine

namespace Sys2Proof

open Machine

/-! ### The lookup -/

/-- `ROMRead(ns, a)`: pure, combinational, without side effect (R13, R52). -/
def Cfg.romRead (c : Cfg) (ns : Namespace) (a : Byte) : Byte :=
  match ns with
  | .base => Rom.read c.baseRom a
  | .ext => Rom.read c.extRom a

/-- The namespace of a terminal byte: EXT when `dec_ext` = 1, BASE otherwise (R158). -/
def Namespace.ofExt (ext : Bit) : Namespace := if ext then .ext else .base

/-- `lookup(b, ext)` (R180). -/
def Cfg.lookup (c : Cfg) (b : Byte) (ext : Bit) : Byte := c.romRead (Namespace.ofExt ext) b

/-- The name in a list of names. -/
def KeyNames.get : KeyNames → Byte → Option String
  | [], _ => none
  | e :: r, id => if e.1 = id then some e.2 else KeyNames.get r id

/-- `KEY_NAMES[id]`: a name, or none when the id is unused (R80). -/
def Cfg.nameOf (c : Cfg) (id : Byte) : Option String := KeyNames.get c.keyNames id

/-! ### Names of key events -/

/-- One upper-case hexadecimal digit (R13, decision D13). -/
def hexDigit (n : Nat) : Char := if n < 10 then Char.ofNat (48 + n) else Char.ofNat (55 + n)

/-- `hex2(b)`: two upper-case hexadecimal digits, with a leading zero (R13, R81). -/
def hex2 (b : Byte) : String := String.ofList [hexDigit (b.toNat / 16), hexDigit (b.toNat % 16)]

/-- The fallback label of an unmapped terminal byte (R81). -/
def fallback (ext : Bit) (b : Byte) : String :=
  if ext then "UNKNOWN_E0_" ++ hex2 b else "UNKNOWN_" ++ hex2 b

/-- `keyName(key_id, extended, code)` (R87). It is none only for an id that has no name, and no event of a valid
configuration carries one (R80; spec/93_implementation_defined.md I14). -/
def Cfg.keyName (c : Cfg) (keyId : Byte) (extended : Bit) (code : Byte) : Option String :=
  if keyId ≠ 0x00#8 then c.nameOf keyId else some (fallback extended code)

/-! ### The check of a configuration -/

/-- Every non-zero word of a ROM that can be read is an id that has a name (R80). The words at 0xE0, 0xE1 and 0xF0 are
free of this check: R80 says "some ROM word" and makes no exception, R183 and I13 call those three words don't-care and
`any value`, and that the latter wins is the model's choice (DESIGN CHOICE, log entry 20). -/
def Cfg.romNamed (c : Cfg) (r : Rom) : Bool := r.all fun e => Rom.neverRead e.1 || (c.nameOf e.2).isSome

/-- The ids of the names strictly rise and start above 0x00, which has no name (R80; I14). -/
def KeyNames.wf : Byte → KeyNames → Bool
  | _, [] => true
  | lo, e :: r => decide (lo.toNat < e.1.toNat) && KeyNames.wf e.1 r

/-- The constraints of R8 that R9 has a model enforce, the form of the ROMs (R50) and of the names (R80; log entries
14 and 16), the naming of the words that can be read (R80, R183; log entry 20) and the three entries of R181. -/
def Cfg.wf (c : Cfg) : Bool :=
  decide (1 ≤ c.startTimeout) && decide (1 ≤ c.resyncTimeout) && decide (1 ≤ c.pollDiv)
    && Rom.wf c.baseRom && Rom.wf c.extRom && KeyNames.wf 0x00#8 c.keyNames
    && c.romNamed c.baseRom && c.romNamed c.extRom
    && c.lookup 0x1C#8 false != 0x00#8 && c.nameOf (c.lookup 0x1C#8 false) == some "A"
    && c.lookup 0x75#8 true != 0x00#8 && c.nameOf (c.lookup 0x75#8 true) == some "UP"
    && c.lookup 0x02#8 false == 0x00#8

/-! ### Widths of the counters -/

/-- `max(1, ceil(log2(limit)))`: "enough to hold 0 .. limit - 1" (R23 to R25, decision D26). -/
def counterWidth (limit : Nat) : Nat := if limit ≤ 1 then 1 else Nat.log2 (limit - 1) + 1

/-- `W_START` (R23). -/
def Cfg.wStart (c : Cfg) : Nat := counterWidth c.startTimeout
/-- `W_RESYNC` (R24). -/
def Cfg.wResync (c : Cfg) : Nat := counterWidth c.resyncTimeout
/-- `W_GAP` (R25). -/
def Cfg.wGap (c : Cfg) : Nat := counterWidth (max c.gap 2)

/-! ### Reference contents and the test configuration -/

/-- One row of the reference tables: address, ROM word (key id), name (R184, R185). -/
abbrev TableRow := Nat × Byte × String

/-- The reference `BASE_ROM` table (R184), part 1. -/
def baseRows1 : List TableRow :=
  [(0x01, 0x01#8, "F9"), (0x03, 0x02#8, "F5"), (0x04, 0x03#8, "F3"), (0x05, 0x04#8, "F1"),
   (0x06, 0x05#8, "F2"), (0x07, 0x06#8, "F12"), (0x09, 0x07#8, "F10"), (0x0A, 0x08#8, "F8"),
   (0x0B, 0x09#8, "F6"), (0x0C, 0x0A#8, "F4"), (0x0D, 0x0B#8, "TAB"), (0x0E, 0x0C#8, "GRAVE"),
   (0x11, 0x0D#8, "LALT"), (0x12, 0x0E#8, "LSHIFT"), (0x14, 0x0F#8, "LCTRL"), (0x15, 0x10#8, "Q"),
   (0x16, 0x11#8, "1"), (0x1A, 0x12#8, "Z"), (0x1B, 0x13#8, "S"), (0x1C, 0x14#8, "A"),
   (0x1D, 0x15#8, "W"), (0x1E, 0x16#8, "2")]

/-- The reference `BASE_ROM` table (R184), part 2. -/
def baseRows2 : List TableRow :=
  [(0x21, 0x17#8, "C"), (0x22, 0x18#8, "X"), (0x23, 0x19#8, "D"), (0x24, 0x1A#8, "E"),
   (0x25, 0x1B#8, "4"), (0x26, 0x1C#8, "3"), (0x29, 0x1D#8, "SPACE"), (0x2A, 0x1E#8, "V"),
   (0x2B, 0x1F#8, "F"), (0x2C, 0x20#8, "T"), (0x2D, 0x21#8, "R"), (0x2E, 0x22#8, "5"),
   (0x31, 0x23#8, "N"), (0x32, 0x24#8, "B"), (0x33, 0x25#8, "H"), (0x34, 0x26#8, "G"),
   (0x35, 0x27#8, "Y"), (0x36, 0x28#8, "6"), (0x3A, 0x29#8, "M"), (0x3B, 0x2A#8, "J"),
   (0x3C, 0x2B#8, "U"), (0x3D, 0x2C#8, "7")]

/-- The reference `BASE_ROM` table (R184), part 3. -/
def baseRows3 : List TableRow :=
  [(0x3E, 0x2D#8, "8"), (0x41, 0x2E#8, "COMMA"), (0x42, 0x2F#8, "K"), (0x43, 0x30#8, "I"),
   (0x44, 0x31#8, "O"), (0x45, 0x32#8, "0"), (0x46, 0x33#8, "9"), (0x49, 0x34#8, "DOT"),
   (0x4A, 0x35#8, "SLASH"), (0x4B, 0x36#8, "L"), (0x4C, 0x37#8, "SEMICOLON"), (0x4D, 0x38#8, "P"),
   (0x4E, 0x39#8, "MINUS"), (0x52, 0x3A#8, "QUOTE"), (0x54, 0x3B#8, "LBRACKET"), (0x55, 0x3C#8, "EQUAL"),
   (0x58, 0x3D#8, "CAPSLOCK"), (0x59, 0x3E#8, "RSHIFT"), (0x5A, 0x3F#8, "ENTER"), (0x5B, 0x40#8, "RBRACKET"),
   (0x5D, 0x41#8, "BACKSLASH"), (0x61, 0x42#8, "NONUS_BACKSLASH")]

/-- The reference `BASE_ROM` table (R184), part 4. -/
def baseRows4 : List TableRow :=
  [(0x66, 0x43#8, "BACKSPACE"), (0x69, 0x44#8, "KP_1"), (0x6B, 0x45#8, "KP_4"), (0x6C, 0x46#8, "KP_7"),
   (0x70, 0x47#8, "KP_0"), (0x71, 0x48#8, "KP_DOT"), (0x72, 0x49#8, "KP_2"), (0x73, 0x4A#8, "KP_5"),
   (0x74, 0x4B#8, "KP_6"), (0x75, 0x4C#8, "KP_8"), (0x76, 0x4D#8, "ESC"), (0x77, 0x4E#8, "NUMLOCK"),
   (0x78, 0x4F#8, "F11"), (0x79, 0x50#8, "KP_PLUS"), (0x7A, 0x51#8, "KP_3"), (0x7B, 0x52#8, "KP_MINUS"),
   (0x7C, 0x53#8, "KP_ASTERISK"), (0x7D, 0x54#8, "KP_9"), (0x7E, 0x55#8, "SCROLLLOCK"), (0x83, 0x56#8, "F7")]

/-- The reference `BASE_ROM` table (R184). -/
def baseRows : List TableRow := baseRows1 ++ baseRows2 ++ baseRows3 ++ baseRows4

/-- The reference `EXT_ROM` table (R185), part 1. -/
def extRows1 : List TableRow :=
  [(0x10, 0x57#8, "WWW_SEARCH"), (0x11, 0x58#8, "RALT"), (0x14, 0x59#8, "RCTRL"), (0x15, 0x5A#8, "MEDIA_PREV"),
   (0x18, 0x5B#8, "WWW_FAVORITES"), (0x1F, 0x5C#8, "LGUI"), (0x20, 0x5D#8, "WWW_REFRESH"), (0x21, 0x5E#8, "VOLUME_DOWN"),
   (0x23, 0x5F#8, "MUTE"), (0x27, 0x60#8, "RGUI"), (0x28, 0x61#8, "WWW_STOP"), (0x2B, 0x62#8, "CALCULATOR"),
   (0x2F, 0x63#8, "APPS"), (0x30, 0x64#8, "WWW_FORWARD"), (0x32, 0x65#8, "VOLUME_UP"), (0x34, 0x66#8, "MEDIA_PLAY_PAUSE"),
   (0x37, 0x67#8, "POWER"), (0x38, 0x68#8, "WWW_BACK"), (0x3A, 0x69#8, "WWW_HOME"), (0x3B, 0x6A#8, "MEDIA_STOP")]

/-- The reference `EXT_ROM` table (R185), part 2. -/
def extRows2 : List TableRow :=
  [(0x3F, 0x6B#8, "SLEEP"), (0x40, 0x6C#8, "MY_COMPUTER"), (0x48, 0x6D#8, "EMAIL"), (0x4A, 0x6E#8, "KP_SLASH"),
   (0x4D, 0x6F#8, "MEDIA_NEXT"), (0x50, 0x70#8, "MEDIA_SELECT"), (0x5A, 0x71#8, "KP_ENTER"), (0x5E, 0x72#8, "WAKE"),
   (0x69, 0x73#8, "END"), (0x6B, 0x74#8, "LEFT"), (0x6C, 0x75#8, "HOME"), (0x70, 0x76#8, "INSERT"),
   (0x71, 0x77#8, "DELETE"), (0x72, 0x78#8, "DOWN"), (0x74, 0x79#8, "RIGHT"), (0x75, 0x7A#8, "UP"),
   (0x7A, 0x7B#8, "PAGE_DOWN"), (0x7C, 0x7C#8, "PRINT_SCREEN"), (0x7D, 0x7D#8, "PAGE_UP")]

/-- The reference `EXT_ROM` table (R185). -/
def extRows : List TableRow := extRows1 ++ extRows2

/-- The ROM cells of table rows. -/
def romOfRows (rows : List TableRow) : Rom := rows.map fun t => (t.1, t.2.1)

/-- The names that table rows give. -/
def namesOfRows (rows : List TableRow) : KeyNames := rows.map fun t => (t.2.1, t.2.2)

/-- TCFG, "the configuration 95_test_vectors.md uses" (R8). `P_POLL_DIV` has no value there (the open-parameters
table says "none"), and 1 is the least it admits; `P_SYNC_STAGES` is the reference 2 (log entry 15). -/
def Cfg.tcfg : Cfg where
  startTimeout := 4
  resyncTimeout := 4
  gap := 0
  pollDiv := 1
  syncStages := 2
  baseRom := romOfRows baseRows
  extRom := romOfRows extRows
  keyNames := namesOfRows (baseRows ++ extRows)

end Sys2Proof
end

