-- ==== Sys2Proof/Machine/State.lean ====
section
/-! DEFINITION. The state of the block as plain data (spec/10_state.md R20 to R43), its events
(spec/30_encoding.md R82 to R86), the reasons a step can stop, and the state after reset (R43). -/

namespace Sys2Proof

/-- A configuration together with its check: a configuration that breaks a constraint cannot be built (R9). -/
structure Cfg.Valid where
  raw : Cfg
  ok : raw.wf = true
deriving DecidableEq, Repr

/-- The test configuration passes the check of R9. -/
theorem Cfg.tcfg_wf : Cfg.tcfg.wf = true := by decide

/-- The test configuration TCFG as a valid one (R8). -/
def Cfg.test : Cfg.Valid := ⟨Cfg.tcfg, Cfg.tcfg_wf⟩

/-- The configuration that the integrator installed: any valid one, and no proof can see which (log entry 2). -/
def Cfg.installed : Cfg.Valid := if h : Config.rawCfg.wf = true then ⟨Config.rawCfg, h⟩ else Cfg.test

end Sys2Proof

namespace Sys2Proof.Machine

/-! ### Events -/

/-- The payload of EV_FRAME, and the three outputs of the Frame Validator (R83, R130 to R132). -/
structure FrameReport where
  /-- F (R72) -/
  word : FrameWord
  value : Byte
  valid : Bit
  parityOk : Bit
deriving DecidableEq, Repr

/-- The payload of EV_KEY (R84); `raw_len` is the length of `raw`. -/
structure KeyReport where
  /-- the ROM word, 0x00 = unmapped -/
  keyId : Byte
  /-- the terminal byte -/
  code : Byte
  direction : Direction
  extended : Bit
  /-- the bytes in reception order -/
  raw : List Byte
deriving DecidableEq, Repr

/-- The five kinds of event (R82). -/
inductive Event where
  /-- EV_START_TIMEOUT, code 1 (R86) -/
  | startTimeout
  /-- EV_FRAME, code 2 (R83) -/
  | frame (f : FrameReport)
  /-- EV_RESYNC, code 3 (R86) -/
  | resync (ok : Bit)
  /-- EV_KEY, code 4 (R84) -/
  | key (k : KeyReport)
  /-- EV_OVERFLOW, code 5 (R85) -/
  | overflow (raw : List Byte)
deriving DecidableEq, Repr

/-- The source's error taxonomy; each cause is an event of the step where it arises (R200 to R205). -/
inductive Cause where
  | frameTimeout
  /-- its sub-cause: F[0] = 1 (bad start), or F[0] = 0 and F[10] = 0 (bad stop) (R202) -/
  | frameInvalid (badStart : Bit)
  | resyncTimeout
  | unknownScanCode
  | sequenceOverflow
deriving DecidableEq, Repr

/-! ### State -/

/-- The fields of R20 that belong to the Bit Sampler and the Resynchronizer. -/
structure Sampler where
  /-- `samp_state` (R21) -/
  sampState : SampState
  /-- `bit_idx`, 3 bits (R22) -/
  bitIdx : Fin 8
  /-- `start_cnt`, 0 .. P_START_TIMEOUT - 1 (R23) -/
  startCnt : Nat
  /-- `resync_cnt`, 0 .. P_RESYNC_TIMEOUT - 1 (R24) -/
  resyncCnt : Nat
  /-- `gap_cnt`, 0 .. P_GAP - 1 (R25) -/
  gapCnt : Nat
  /-- `frm_start` (R27) -/
  frmStart : Bit
  /-- `frm_data` (R28) -/
  frmData : Byte
  /-- `frm_parity` (R29) -/
  frmParity : Bit
deriving DecidableEq, Repr

/-- The source's `DecoderState` (R20, R30 to R33). -/
structure Decoder where
  /-- `dec_break` (R30) -/
  brk : Bit
  /-- `dec_ext` (R31) -/
  ext : Bit
  /-- `dec_pause` (R32) -/
  pause : Bit
  /-- `dec_plen`, 0 to 8 (R33) -/
  plen : Fin 9
  /-- `dec_pend[0..7]`; the entries at index `dec_plen` and above are don't-care (R33) -/
  pend : Vector Byte 8
deriving DecidableEq, Repr

/-- THE STATE: the tuple of R20 (`samp`, `dec`), what the event outputs show (`events`, `quiet`; R39, R43), the
input synchronizers (`sync`; R38), and three fields of the model's own: the configuration, which no step writes
(`cfg`; R8, R40), the stimuli still to come (`inputs`; R7, R16) and the counter of free values (`freeIdx`). -/
structure State where
  /-- the parameters of R8, as the argument `cfg` of R14 -/
  cfg : Cfg.Valid
  /-- Bit Sampler and Resynchronizer -/
  samp : Sampler
  /-- Scan-Code State Machine -/
  dec : Decoder
  /-- `evs`, the events of the last step in order (R14, R15): the `ev_*` strobes and their payloads (R39) -/
  events : List Event
  /-- what each payload port reads while its strobe is low (R39, R43) -/
  quiet : Payload
  /-- the synchronizer flops of both lines, newest sample first (R38, decision D18) -/
  sync : List Line
  /-- what the device and the controller will do, soonest first (R7, R16) -/
  inputs : List Stimulus
  /-- how many free values the steps have drawn -/
  freeIdx : Nat
deriving DecidableEq, Repr

/-! ### Reasons to stop -/

/-- There is none: "No behaviour of the block is `fault`: no condition is fatal" (spec/93_implementation_defined.md;
R200). The type is closed and has no constructor, so no step faults. -/
inductive Fault where
deriving DecidableEq, Repr

/-- The reasons not to run. All are safe: nothing is claimed of a run that stops. -/
inductive Refusal where
  /-- raised by an arm of `exec` whose instruction has no meaning yet; no arm does -/
  | notModelled (mnemonic : String)
  /-- raised by `step` when the word of a step decodes to no row; `Laws` prove that no state leads there, since
  `SampState` has no reserved code (R75, R76) -/
  | undecodable (why : DecodeError)
  /-- raised by `configure` on a configuration that breaks a constraint of R9 -/
  | invalidConfiguration
deriving DecidableEq, Repr

/-! ### Reset values -/

/-- Both lines resting HIGH: the idle sample L = 0b11 (R17, R71). -/
def idleLine : Line := { clk := true, data := true }

/-- The sampler after reset (R43). -/
def Sampler.reset : Sampler where
  sampState := .wsl
  bitIdx := 0
  startCnt := 0
  resyncCnt := 0
  gapCnt := 0
  frmStart := false
  frmData := 0x00#8
  frmParity := false

/-- The decoder after reset: "all flags false, empty buffer", and every entry 0x00 (R43). -/
def Decoder.reset : Decoder where
  brk := false
  ext := false
  pause := false
  plen := 0
  pend := #v[0x00#8, 0x00#8, 0x00#8, 0x00#8, 0x00#8, 0x00#8, 0x00#8, 0x00#8]

/-- "every payload output | 0" after reset (R43). -/
def Payload.zero : Payload where
  frameWord := 0#11
  frameByte := 0x00#8
  frameValid := false
  frameParityOk := false
  resyncOk := false
  keyId := 0x00#8
  keyCode := 0x00#8
  keyRelease := false
  keyExtended := false
  rawLen := 0#4
  rawBytes := #v[0x00#8, 0x00#8, 0x00#8, 0x00#8, 0x00#8, 0x00#8, 0x00#8, 0x00#8, 0x00#8]

/-- Every synchronizer flop "preset to 1 at reset" (decision D18, R233). -/
def syncPreset (c : Cfg.Valid) : List Line := List.replicate c.raw.syncStages idleLine

/-- The block right after reset under a given configuration (R43), with no stimulus told. -/
def State.resetWith (c : Cfg.Valid) : State where
  cfg := c
  samp := Sampler.reset
  dec := Decoder.reset
  events := []
  quiet := Payload.zero
  sync := syncPreset c
  inputs := []
  freeIdx := 0

/-- THE STATE AFTER RESET, under the configuration that the integrator installed (R43, R230; log entries 2 and 4). -/
def State.reset : State := State.resetWith Cfg.installed

/-- Elaboration (R9, R233): a valid configuration gives the block after reset; any other is refused. -/
def configure (c : Cfg) : Host.Outcome State Fault Refusal :=
  if h : c.wf = true then .next (State.resetWith ⟨c, h⟩) else .refused .invalidConfiguration

end Sys2Proof.Machine
end

