-- ==== Sys2Proof/Machine/Flags.lean ====
section
/-! DEFINITION. The computed bits: the Frame Validator with its parity check (spec/41_frame_validator.md R130 to
R134), and the changes of the three decoder flags (spec/43_scan_code_fsm.md R151 to R153, R157). -/

namespace Sys2Proof.Machine

/-- `popcount(v)`: the number of 1 bits in v (R13). -/
def popcount {n : Nat} (v : BitVec n) : Nat := ((List.range n).filter fun i => v.getLsbD i).length

/-- `valid <- (F[0] == 0) and (F[10] == 1)` (R131). -/
def frameIsValid (f : FrameWord) : Bit := !f.getLsbD 0 && f.getLsbD 10

/-- `parity_ok <- ((popcount(F[8:1]) + F[9]) mod 2) == 1` (R132). -/
def parityIsOdd (f : FrameWord) : Bit :=
  (popcount (frameByte f) + (f.getLsbD 9).toNat) % 2 == 1

/-- The Frame Validator: a pure function of F, without state or side effect (R130 to R134). -/
def validate (f : FrameWord) : FrameReport where
  word := f
  value := frameByte f
  valid := frameIsValid f
  parityOk := parityIsOdd f

/-- `value <- value | (F[1+i] << i)` for i in 0..7, as R130 writes it; `validate` uses F[8:1], which R130 says is
equivalent. -/
def accumulateByte (f : FrameWord) : Byte :=
  (List.range 8).foldl (fun v i => v ||| ((bitWord (f.getLsbD (1 + i))).setWidth 8 <<< i)) 0x00#8

/-- `1 xor (popcount(v) mod 2)`, the odd-parity bit of a byte (R90). -/
def oddParityBit (v : Byte) : Bit := popcount v % 2 == 0

/-- `direction` of a key event: RELEASE when `dec_break` = 1 (R159). -/
def directionOf (brk : Bit) : Direction := if brk then .release else .press

/-- The bit of a direction: 0 = PRESS, 1 = RELEASE (R84). -/
def directionBit : Direction → Bit
  | .press => false
  | .release => true

/-- `dec_reset()`: the flags and the length are cleared, and `dec_pend` is left as it is (R157). -/
def Decoder.cleared (d : Decoder) : Decoder :=
  { d with brk := false, ext := false, pause := false, plen := 0 }

end Sys2Proof.Machine
end

