-- ==== Sys2Proof/Machine/Operands.lean ====
section
/-! DEFINITION. Every operand a rule assembles or writes: the frame word, the bit of `frm_data`, the pending
sequence and the raw bytes (spec/30_encoding.md R72, R94; spec/10_state.md R28, R33). -/

namespace Sys2Proof.Machine

/-- `F <- {in.data, frm_parity, frm_data[7:0], frm_start}` in the step that samples the stop bit (R72, R107). -/
def Sampler.frameWord (x : Sampler) (stop : Bit) : FrameWord :=
  frameWordOf x.frmStart x.frmData x.frmParity stop

/-- `v[i] <- b`, the other bits unchanged (R28, R103). -/
def writeBit (v : Byte) (i : Fin 8) (b : Bit) : Byte :=
  if b then v ||| (1#8 <<< i.val) else v &&& ~~~(1#8 <<< i.val)

/-- The source's `pendingBytes`: `dec_pend[0 .. dec_plen-1]`, the byte received first in front (R33, R59). -/
def Decoder.pending (d : Decoder) : List Byte := d.pend.toList.take d.plen.val

/-- "rawBytes = pendingBytes + [byte]" (R154, R161). -/
def Decoder.rawBytes (d : Decoder) (b : Byte) : List Byte := d.pending ++ [b]

/-- The next value of `bit_idx` below 7 (R104). -/
def nextBit (i : Fin 8) : Fin 8 := i + 1

end Sys2Proof.Machine
end

