-- ==== Sys2Proof/Machine/Ops.lean ====
section
/-! DEFINITION. The named operations that the state rules share. The block has no exceptions: "Nothing is saved, no
handler runs, no vector is taken and no mode changes" (spec/60_exceptions.md R200), and none returns (R208). What
stands where another machine takes an exception is `State.emit`: every cause of the error taxonomy is an event of
the step where it arises (R201 to R206), and the state rule gives the next state. -/

namespace Sys2Proof.Machine

/-- `emit E`: E goes to the end of this step's event list (R12, R67). -/
def State.emit (s : State) (e : Event) : State := { s with events := s.events ++ [e] }

/-- Write fields of the sampler. -/
def State.withSamp (s : State) (x : Sampler) : State := { s with samp := x }

/-- Write fields of the decoder. -/
def State.withDec (s : State) (d : Decoder) : State := { s with dec := d }

/-! ### Entering a state of the sampler -/

/-- Enter WSL with a fresh start budget (R101, R107, R108, R140). -/
def State.enterStartWait (s : State) : State :=
  s.withSamp { s.samp with sampState := .wsl, startCnt := 0 }

/-- Enter GAP (R107). -/
def State.enterGap (s : State) : State :=
  s.withSamp { s.samp with sampState := .gap, gapCnt := 0 }

/-- Enter RESYNC (R107, R135). -/
def State.enterResync (s : State) : State :=
  s.withSamp { s.samp with sampState := .rsy, resyncCnt := 0 }

/-- Go to another state and write nothing else. -/
def State.goto (s : State) (st : SampState) : State :=
  s.withSamp { s.samp with sampState := st }

/-- After a valid frame: WSL at once when `P_GAP` = 0, GAP otherwise (R107). -/
def State.afterValidFrame (s : State) : State :=
  if s.cfg.raw.gap = 0 then s.enterStartWait else s.enterGap

/-! ### The decoder -/

/-- `dec_reset()` (R157). -/
def State.decReset (s : State) : State := s.withDec s.dec.cleared

/-- `append(b)`: a prefix byte joins the pending buffer under the overflow guard (R155). With 8 bytes pending it
emits EV_OVERFLOW with the 9 bytes and resets the decoder (R156). -/
def State.append (s : State) (b : Byte) : State :=
  if h : s.dec.plen.val < 8 then
    s.withDec { s.dec with pend := s.dec.pend.set s.dec.plen.val b, plen := ⟨s.dec.plen.val + 1, by omega⟩ }
  else (s.emit (.overflow (s.dec.pend.toList ++ [b]))).decReset

/-! ### Control -/

/-- Every field of the block to its reset value, and no event (R43, R230). The configuration, the stimuli and the
counter of free values are no part of the block. -/
def State.resetBlock (s : State) : State :=
  { s with
    samp := Sampler.reset
    dec := Decoder.reset
    events := []
    quiet := Payload.zero
    sync := syncPreset s.cfg }

end Sys2Proof.Machine
end

