-- ==== Sys2Proof/Machine/Scan.lean ====
section
/-! DEFINITION. The Scan-Code State Machine: the four byte classes (spec/43_scan_code_fsm.md R150 to R161) and the
lookup they make (spec/44_scan_code_tables.md R180). -/

namespace Sys2Proof.Machine

/-- R151: `dec_ext <- 1`, then `append(0xE0)`; on overflow the reset wins over the flag write (R12). -/
def prefixExt (s : State) : State := (s.withDec { s.dec with ext := true }).append 0xE0#8

/-- R152: the buffer becomes [0xE1] and `dec_pause <- 1`; `dec_break` and `dec_ext` are not written. -/
def prefixPause (s : State) : State :=
  s.withDec { s.dec with pend := s.dec.pend.set 0 0xE1#8, plen := 1, pause := true }

/-- R153: `dec_break <- 1`, then `append(0xF0)`. -/
def prefixBreak (s : State) : State := (s.withDec { s.dec with brk := true }).append 0xF0#8

/-- The EV_KEY of a terminal byte, read from the state before the step (R154, R158 to R161). -/
def keyReport (s : State) (b : Byte) : KeyReport where
  keyId := s.cfg.raw.lookup b s.dec.ext
  code := b
  direction := directionOf s.dec.brk
  extended := s.dec.ext
  raw := s.dec.rawBytes b

/-- R154: one EV_KEY, whether or not the ROM maps the byte, then `dec_reset()`. -/
def terminalByte (b : Byte) (s : State) : State := (s.emit (.key (keyReport s b))).decReset

/-- `consume(b)`: exactly one of R151 to R154, by the class of b (R150). -/
def consume (b : Byte) (s : State) : State :=
  match classifyByte b with
  | .ext => prefixExt s
  | .pause => prefixPause s
  | .brk => prefixBreak s
  | .terminal c => terminalByte c s

/-- PFX_EXT (R151). -/
def execPfxExt (s : State) : Host.Outcome State Fault Refusal := .next (prefixExt s)

/-- PFX_PAUSE (R152). -/
def execPfxPause (s : State) : Host.Outcome State Fault Refusal := .next (prefixPause s)

/-- PFX_BREAK (R153). -/
def execPfxBreak (s : State) : Host.Outcome State Fault Refusal := .next (prefixBreak s)

/-- TERMINAL (R154). -/
def execTerminal (b : Byte) (s : State) : Host.Outcome State Fault Refusal := .next (terminalByte b s)

end Sys2Proof.Machine
end

