-- ==== Sys2Proof/Machine/Frame.lean ====
section
/-! DEFINITION. The Frame Validator's three classes: what the step that completes a frame does once the frame word is
known (spec/41_frame_validator.md R131, R135, R136; spec/40_bit_sampler.md R107). -/

namespace Sys2Proof.Machine

/-- A frame of class FRAME_VALID is reported, its byte goes to the decoder in the same step, and the sampler goes to
WSL or GAP (R107, R135, R136). -/
def frameAccepted (f : FrameWord) (s : State) : State :=
  (consume (frameByte f) (s.emit (.frame (validate f)))).afterValidFrame

/-- A frame with `valid` = 0 is reported and discarded, and the sampler enters RESYNC (R107, R135, R136). -/
def frameRejected (f : FrameWord) (s : State) : State :=
  (s.emit (.frame (validate f))).enterResync

/-- FRAME_VALID: F[0] = 0, F[10] = 1 (R73, R131). -/
def execFrameValid (parity : Bit) (value : Byte) (s : State) : Host.Outcome State Fault Refusal :=
  .next (frameAccepted (frameWordOf false value parity true) s)

/-- FRAME_BAD_START: F[0] = 1 (R73, R131, R202). -/
def execFrameBadStart (stop parity : Bit) (value : Byte) (s : State) : Host.Outcome State Fault Refusal :=
  .next (frameRejected (frameWordOf true value parity stop) s)

/-- FRAME_BAD_STOP: F[0] = 0, F[10] = 0 (R73, R131, R202). -/
def execFrameBadStop (parity : Bit) (value : Byte) (s : State) : Host.Outcome State Fault Refusal :=
  .next (frameRejected (frameWordOf false value parity false) s)

/-- The frame word's class decides which of the three runs (R73, R107). -/
def completeFrame (f : FrameWord) (s : State) : Host.Outcome State Fault Refusal :=
  match classifyFrame f with
  | .valid parity value => execFrameValid parity value s
  | .badStart stop parity value => execFrameBadStart stop parity value s
  | .badStop parity value => execFrameBadStop parity value s

end Sys2Proof.Machine
end

