-- ==== Sys2Proof/Machine/BitSampler.lean ====
section
/-! DEFINITION. The Bit Sampler's state rules (spec/40_bit_sampler.md R101 to R109). Each wait tests a level in every
poll, the first one after entry included, and samples data in the poll that fires it (R110, R111). A wait that does
not fire changes nothing: "no change (wait, unbounded)". -/

namespace Sys2Proof.Machine

/-- WSL.CLK_LOW: the start bit is sampled and the frame is begun afresh (R101). -/
def execWslClkLow (data : Bit) (s : State) : Host.Outcome State Fault Refusal :=
  .next (s.withSamp { s.samp with frmStart := data, frmData := 0x00#8, startCnt := 0, sampState := .wsh })

/-- WSL.CLK_HIGH: one more poll of the start budget, or EV_START_TIMEOUT and a fresh budget (R101). -/
def execWslClkHigh (_data : Bit) (s : State) : Host.Outcome State Fault Refusal :=
  .next (if s.samp.startCnt = s.cfg.raw.startTimeout - 1
    then (s.emit .startTimeout).withSamp { s.samp with startCnt := 0 }
    else s.withSamp { s.samp with startCnt := s.samp.startCnt + 1 })

/-- WSH.CLK_HIGH: on to data slot 0 (R102). -/
def execWshClkHigh (_data : Bit) (s : State) : Host.Outcome State Fault Refusal :=
  .next (s.withSamp { s.samp with bitIdx := 0, sampState := .wbl })

/-- WSH.CLK_LOW: wait (R102). -/
def execWshClkLow (_data : Bit) (s : State) : Host.Outcome State Fault Refusal := .next s

/-- WBL.CLK_LOW: the data bit of slot `bit_idx` is sampled (R103). -/
def execWblClkLow (data : Bit) (s : State) : Host.Outcome State Fault Refusal :=
  .next (s.withSamp { s.samp with frmData := writeBit s.samp.frmData s.samp.bitIdx data, sampState := .wbh })

/-- WBL.CLK_HIGH: wait (R103). -/
def execWblClkHigh (_data : Bit) (s : State) : Host.Outcome State Fault Refusal := .next s

/-- WBH.CLK_HIGH: on to the next data slot, or after slot 7 to the parity slot (R104). -/
def execWbhClkHigh (_data : Bit) (s : State) : Host.Outcome State Fault Refusal :=
  .next (if s.samp.bitIdx ≠ 7
    then s.withSamp { s.samp with bitIdx := nextBit s.samp.bitIdx, sampState := .wbl }
    else s.goto .wpl)

/-- WBH.CLK_LOW: wait (R104). -/
def execWbhClkLow (_data : Bit) (s : State) : Host.Outcome State Fault Refusal := .next s

/-- WPL.CLK_LOW: the parity bit is sampled (R105). -/
def execWplClkLow (data : Bit) (s : State) : Host.Outcome State Fault Refusal :=
  .next (s.withSamp { s.samp with frmParity := data, sampState := .wph })

/-- WPL.CLK_HIGH: wait (R105). -/
def execWplClkHigh (_data : Bit) (s : State) : Host.Outcome State Fault Refusal := .next s

/-- WPH.CLK_HIGH: on to the stop slot (R106). -/
def execWphClkHigh (_data : Bit) (s : State) : Host.Outcome State Fault Refusal := .next (s.goto .wtl)

/-- WPH.CLK_LOW: wait (R106). -/
def execWphClkLow (_data : Bit) (s : State) : Host.Outcome State Fault Refusal := .next s

/-- WTL.CLK_LOW: the stop bit is sampled, and the frame is validated and its byte consumed in this same step (R107,
R244). -/
def execWtlClkLow (data : Bit) (s : State) : Host.Outcome State Fault Refusal :=
  completeFrame (s.samp.frameWord data) s

/-- WTL.CLK_HIGH: wait (R107). -/
def execWtlClkHigh (_data : Bit) (s : State) : Host.Outcome State Fault Refusal := .next s

/-- GAP.ANY: the lines are ignored for `P_GAP` polls, then WSL (R108). At its limit `gap_cnt` is left as it is until
the next entry into GAP clears it, as the pseudocode of R108 has it; R26 says that the rule "clears it", and that R108
wins is the model's choice (log entry 19). -/
def execGapAny (_clk _data : Bit) (s : State) : Host.Outcome State Fault Refusal :=
  .next (if s.samp.gapCnt = s.cfg.raw.gap - 1
    then s.enterStartWait
    else s.withSamp { s.samp with gapCnt := s.samp.gapCnt + 1 })

/-- HLT.ANY: no activity until reset (R109, R213). -/
def execHltAny (_clk _data : Bit) (s : State) : Host.Outcome State Fault Refusal := .next s

end Sys2Proof.Machine
end

