-- ==== Sys2Proof/Machine/Control.lean ====
section
/-! DEFINITION. The two control inputs (spec/70_reset_and_hazards.md R230 to R232, spec/60_exceptions.md R212). -/

namespace Sys2Proof.Machine

/-- RESET: every field to its reset value, no event; cancel and the sample are ignored (R230). -/
def execReset (_cancel _clk _data : Bit) (s : State) : Host.Outcome State Fault Refusal := .next s.resetBlock

/-- CANCEL: `samp_state <- HLT`, no other field, no event (R212). -/
def execCancel (_clk _data : Bit) (s : State) : Host.Outcome State Fault Refusal := .next (s.goto .hlt)

end Sys2Proof.Machine
end

