-- ==== Sys2Proof/Machine/Resync.lean ====
section
/-! DEFINITION. The Resynchronizer, the RESYNC state of the sampler (spec/42_resynchronizer.md R140). -/

namespace Sys2Proof.Machine

/-- A poll in RSY that does not see the idle state: it counts, or on the last poll of the budget reports
EV_RESYNC with ok = 0 and goes to WSL (R140, R142, R203). At its limit `resync_cnt` is left as it is until the next
entry into RSY clears it, as the pseudocode of R140 and program P13 have it; R26 says that the rule "clears it", and
that R140 wins is the model's choice (log entry 19). -/
def resyncPoll (s : State) : State :=
  if s.samp.resyncCnt = s.cfg.raw.resyncTimeout - 1
  then (s.emit (.resync false)).enterStartWait
  else s.withSamp { s.samp with resyncCnt := s.samp.resyncCnt + 1 }

/-- RSY.IDLE: EV_RESYNC with ok = 1, then WSL; the idle test comes before the budget (R140, R210). -/
def execRsyIdle (s : State) : Host.Outcome State Fault Refusal :=
  .next (s.emit (.resync true)).enterStartWait

/-- RSY.CLK_LOW (R140). -/
def execRsyClkLow (_data : Bit) (s : State) : Host.Outcome State Fault Refusal := .next (resyncPoll s)

/-- RSY.CLK_HIGH_DATA_LOW: not idle (R140). -/
def execRsyClkHighDataLow (s : State) : Host.Outcome State Fault Refusal := .next (resyncPoll s)

end Sys2Proof.Machine
end

