-- ==== Sys2Proof/Machine/Dispatch.lean ====
section
/-! DEFINITION. One arm per row of spec/opcode_table.json, in the table's order. -/

namespace Sys2Proof.Machine

-- one direct call of a meaning per arm
def exec (i : Instr) (s : State) : Host.Outcome State Fault Refusal :=
  match i with
  | .wslClkLow data => Sys2Proof.Machine.execWslClkLow data s
  | .wslClkHigh data => Sys2Proof.Machine.execWslClkHigh data s
  | .wshClkHigh data => Sys2Proof.Machine.execWshClkHigh data s
  | .wshClkLow data => Sys2Proof.Machine.execWshClkLow data s
  | .wblClkLow data => Sys2Proof.Machine.execWblClkLow data s
  | .wblClkHigh data => Sys2Proof.Machine.execWblClkHigh data s
  | .wbhClkHigh data => Sys2Proof.Machine.execWbhClkHigh data s
  | .wbhClkLow data => Sys2Proof.Machine.execWbhClkLow data s
  | .wplClkLow data => Sys2Proof.Machine.execWplClkLow data s
  | .wplClkHigh data => Sys2Proof.Machine.execWplClkHigh data s
  | .wphClkHigh data => Sys2Proof.Machine.execWphClkHigh data s
  | .wphClkLow data => Sys2Proof.Machine.execWphClkLow data s
  | .wtlClkLow data => Sys2Proof.Machine.execWtlClkLow data s
  | .wtlClkHigh data => Sys2Proof.Machine.execWtlClkHigh data s
  | .gapAny clk data => Sys2Proof.Machine.execGapAny clk data s
  | .rsyIdle => Sys2Proof.Machine.execRsyIdle s
  | .rsyClkLow data => Sys2Proof.Machine.execRsyClkLow data s
  | .rsyClkHighDataLow => Sys2Proof.Machine.execRsyClkHighDataLow s
  | .hltAny clk data => Sys2Proof.Machine.execHltAny clk data s
  | .frameValid parity value => Sys2Proof.Machine.execFrameValid parity value s
  | .frameBadStart stop parity value => Sys2Proof.Machine.execFrameBadStart stop parity value s
  | .frameBadStop parity value => Sys2Proof.Machine.execFrameBadStop parity value s
  | .pfxExt => Sys2Proof.Machine.execPfxExt s
  | .pfxPause => Sys2Proof.Machine.execPfxPause s
  | .pfxBreak => Sys2Proof.Machine.execPfxBreak s
  | .terminal b => Sys2Proof.Machine.execTerminal b s
  | .reset cancel clk data => Sys2Proof.Machine.execReset cancel clk data s
  | .cancel clk data => Sys2Proof.Machine.execCancel clk data s

end Sys2Proof.Machine
end

