-- ==== Sys2Proof/Machine/Frontend.lean ====
section
/-! DEFINITION. What stands before the state rules in a step: the poll tick and the input synchronizers
(spec/10_state.md R38, spec/70_reset_and_hazards.md R230, R233, R241, decisions D16, D18, D19), and the word that a
step decodes (spec/40_bit_sampler.md R100, spec/30_encoding.md R76). This is the block's instruction fetch, in so
far as it has one (R36). -/

namespace Sys2Proof.Machine

/-- The sample at the end of the synchronizers when the pins show `pin`: the oldest flop of each line, or the pins
themselves when there is no flop (R38). -/
def syncSample (sync : List Line) (pin : Line) : Line := (pin :: sync).getLast (by simp)

/-- The flops after a tick: the pins enter, the oldest sample leaves (R38, R233). -/
def syncShift (sync : List Line) (pin : Line) : List Line := (pin :: sync).dropLast

/-- What the next stimulus means for the block. -/
inductive Admission where
  /-- a cycle of the system clock in which the block takes no step (R38) -/
  | hold (s : State)
  /-- one step of R14 with this input -/
  | tick (i : Input) (s : State)
deriving DecidableEq, Repr

/-- Take the next stimulus. A poll gives its input as it is. A cycle at the pins is a step when `tick_i` = 1, with
the lines read through the synchronizers, and whatever `tick_i` is when `rst_i` = 1 (R38, R230); on every other
cycle the block "holds its state". When no stimulus is told, the input is free (R7). -/
def takeStimulus (s : State) : Admission :=
  match s.inputs with
  | [] => .tick (Config.freeInput s.freeIdx) s
  | .poll i :: rest => .tick i { s with inputs := rest }
  | .cycle p :: rest =>
    if p.rst then
      .tick { rst := true, cancel := p.cancel, clk := p.ps2Clk, data := p.ps2Data } { s with inputs := rest }
    else if p.tick then
      .tick
        { rst := false, cancel := p.cancel
          clk := (syncSample s.sync { clk := p.ps2Clk, data := p.ps2Data }).clk
          data := (syncSample s.sync { clk := p.ps2Clk, data := p.ps2Data }).data }
        { s with inputs := rest, sync := syncShift s.sync { clk := p.ps2Clk, data := p.ps2Data } }
    else .hold { s with inputs := rest }

/-- The word a step decodes: the input word when reset or cancel is asserted, and otherwise the transition word of
the current state and the sample (R76, R100, R210). -/
def fetchCode (i : Input) (s : State) : Code :=
  if i.rst || i.cancel then .control i.word
  else .transition (transitionWord s.samp.sampState { clk := i.clk, data := i.data })

/-- `evs <- []`: the strobes of the step before go low, each high for one tick (R39, R100). What the payload ports
read from then on is free until a strobe makes them valid. -/
def beginTick (s : State) : State :=
  { s with events := [], quiet := Config.freePayload s.freeIdx, freeIdx := s.freeIdx + 1 }

/-! ### Placing one word before the next step -/

/-- Put a poll in front of the stimuli. -/
def State.offer (s : State) (i : Input) : State := { s with inputs := .poll i :: s.inputs }

/-- The sampler about to sample the stop bit of the frame F, and the poll that shows it (R72, R107). -/
def State.offerFrame (s : State) (f : FrameWord) : State :=
  (s.withSamp
    { s.samp with
      sampState := .wtl, frmStart := f.getLsbD 0, frmData := frameByte f, frmParity := f.getLsbD 9 }).offer
    { rst := false, cancel := false, clk := false, data := f.getLsbD 10 }

/-- The state whose next step runs the row of a word: a transition word gives the sampler state and the sample, a
control word the inputs, a frame word the frame about to complete, and a scan byte the valid frame that carries it,
with odd parity (log entry 9). -/
def State.offerCode (s : State) : Code → State
  | .transition t =>
    match SampState.ofCode (t.extractLsb' 2 4) with
    | some st => (s.goto st).offer { rst := false, cancel := false, clk := t.getLsbD 1, data := t.getLsbD 0 }
    | none => s
  | .control w => s.offer (Input.ofWord w)
  | .frame f => s.offerFrame f
  | .scanByte b => s.offerFrame (frameWordOf false b (oddParityBit b) true)

/-- `offerCode` by the host's numbering. -/
def State.offerTableWord (s : State) (nbits w : Nat) : State :=
  match tableCode nbits w with
  | .ok c => s.offerCode c
  | .error _ => s

end Sys2Proof.Machine
end

