-- ==== Sys2Proof/Machine/Step.lean ====
section
/-! DEFINITION. One step of the block, `step(cfg, s, in) -> (s', evs)` (spec/00_scope.md R14, spec/40_bit_sampler.md
R100): the input is taken, its word is decoded, and the row it matches runs. -/

namespace Sys2Proof.Machine

/-- ONE STEP (R6, R14, R100). The events of the step are the field `events` of the state it answers (R15). -/
def step (s : State) : Host.Outcome State Fault Refusal :=
  match takeStimulus s with
  | .hold t => .next t
  | .tick i t =>
    match decode (fetchCode i t) with
    | .ok instr => exec instr (beginTick t)
    | .error e => .refused (.undecodable e)

/-- The state whose very next step runs the instruction of a table word (log entry 9). -/
def State.withFetchWord (s : State) (nbits w : Nat) : State := s.offerTableWord nbits w

end Sys2Proof.Machine
end

