-- ==== Sys2Proof/Laws/State.lean ====
section
/-! SUPPORT. One lemma per field per update of the state, each true by unfolding, so that no proof unfolds a record
update. -/

namespace Sys2Proof.Machine

section Emit
variable (s : State) (e : Event)
@[simp] theorem State.emit_cfg : (s.emit e).cfg = s.cfg := rfl
@[simp] theorem State.emit_samp : (s.emit e).samp = s.samp := rfl
@[simp] theorem State.emit_dec : (s.emit e).dec = s.dec := rfl
@[simp] theorem State.emit_events : (s.emit e).events = s.events ++ [e] := rfl
@[simp] theorem State.emit_quiet : (s.emit e).quiet = s.quiet := rfl
@[simp] theorem State.emit_sync : (s.emit e).sync = s.sync := rfl
@[simp] theorem State.emit_inputs : (s.emit e).inputs = s.inputs := rfl
@[simp] theorem State.emit_freeIdx : (s.emit e).freeIdx = s.freeIdx := rfl
end Emit

section WithSamp
variable (s : State) (x : Sampler)
@[simp] theorem State.withSamp_cfg : (s.withSamp x).cfg = s.cfg := rfl
@[simp] theorem State.withSamp_samp : (s.withSamp x).samp = x := rfl
@[simp] theorem State.withSamp_dec : (s.withSamp x).dec = s.dec := rfl
@[simp] theorem State.withSamp_events : (s.withSamp x).events = s.events := rfl
@[simp] theorem State.withSamp_quiet : (s.withSamp x).quiet = s.quiet := rfl
@[simp] theorem State.withSamp_sync : (s.withSamp x).sync = s.sync := rfl
@[simp] theorem State.withSamp_inputs : (s.withSamp x).inputs = s.inputs := rfl
@[simp] theorem State.withSamp_freeIdx : (s.withSamp x).freeIdx = s.freeIdx := rfl
end WithSamp

section WithDec
variable (s : State) (d : Decoder)
@[simp] theorem State.withDec_cfg : (s.withDec d).cfg = s.cfg := rfl
@[simp] theorem State.withDec_samp : (s.withDec d).samp = s.samp := rfl
@[simp] theorem State.withDec_dec : (s.withDec d).dec = d := rfl
@[simp] theorem State.withDec_events : (s.withDec d).events = s.events := rfl
@[simp] theorem State.withDec_quiet : (s.withDec d).quiet = s.quiet := rfl
@[simp] theorem State.withDec_sync : (s.withDec d).sync = s.sync := rfl
@[simp] theorem State.withDec_inputs : (s.withDec d).inputs = s.inputs := rfl
@[simp] theorem State.withDec_freeIdx : (s.withDec d).freeIdx = s.freeIdx := rfl
end WithDec

section BeginTick
variable (s : State)
@[simp] theorem beginTick_cfg : (beginTick s).cfg = s.cfg := rfl
@[simp] theorem beginTick_samp : (beginTick s).samp = s.samp := rfl
@[simp] theorem beginTick_dec : (beginTick s).dec = s.dec := rfl
@[simp] theorem beginTick_events : (beginTick s).events = [] := rfl
@[simp] theorem beginTick_quiet : (beginTick s).quiet = Config.freePayload s.freeIdx := rfl
@[simp] theorem beginTick_sync : (beginTick s).sync = s.sync := rfl
@[simp] theorem beginTick_inputs : (beginTick s).inputs = s.inputs := rfl
@[simp] theorem beginTick_freeIdx : (beginTick s).freeIdx = s.freeIdx + 1 := rfl
end BeginTick

section ResetBlock
variable (s : State)
@[simp] theorem State.resetBlock_cfg : s.resetBlock.cfg = s.cfg := rfl
@[simp] theorem State.resetBlock_samp : s.resetBlock.samp = Sampler.reset := rfl
@[simp] theorem State.resetBlock_dec : s.resetBlock.dec = Decoder.reset := rfl
@[simp] theorem State.resetBlock_events : s.resetBlock.events = [] := rfl
@[simp] theorem State.resetBlock_quiet : s.resetBlock.quiet = Payload.zero := rfl
@[simp] theorem State.resetBlock_sync : s.resetBlock.sync = syncPreset s.cfg := rfl
@[simp] theorem State.resetBlock_inputs : s.resetBlock.inputs = s.inputs := rfl
@[simp] theorem State.resetBlock_freeIdx : s.resetBlock.freeIdx = s.freeIdx := rfl
end ResetBlock

section Entering
variable (s : State)
@[simp] theorem State.goto_samp (st : SampState) : (s.goto st).samp = { s.samp with sampState := st } := rfl
@[simp] theorem State.goto_cfg (st : SampState) : (s.goto st).cfg = s.cfg := rfl
@[simp] theorem State.goto_dec (st : SampState) : (s.goto st).dec = s.dec := rfl
@[simp] theorem State.goto_events (st : SampState) : (s.goto st).events = s.events := rfl
@[simp] theorem State.goto_sync (st : SampState) : (s.goto st).sync = s.sync := rfl
@[simp] theorem State.goto_inputs (st : SampState) : (s.goto st).inputs = s.inputs := rfl
@[simp] theorem State.enterStartWait_samp :
    s.enterStartWait.samp = { s.samp with sampState := .wsl, startCnt := 0 } := rfl
@[simp] theorem State.enterStartWait_cfg : s.enterStartWait.cfg = s.cfg := rfl
@[simp] theorem State.enterStartWait_dec : s.enterStartWait.dec = s.dec := rfl
@[simp] theorem State.enterStartWait_events : s.enterStartWait.events = s.events := rfl
@[simp] theorem State.enterStartWait_sync : s.enterStartWait.sync = s.sync := rfl
@[simp] theorem State.enterStartWait_inputs : s.enterStartWait.inputs = s.inputs := rfl
@[simp] theorem State.enterGap_samp :
    s.enterGap.samp = { s.samp with sampState := .gap, gapCnt := 0 } := rfl
@[simp] theorem State.enterGap_cfg : s.enterGap.cfg = s.cfg := rfl
@[simp] theorem State.enterGap_dec : s.enterGap.dec = s.dec := rfl
@[simp] theorem State.enterGap_events : s.enterGap.events = s.events := rfl
@[simp] theorem State.enterGap_sync : s.enterGap.sync = s.sync := rfl
@[simp] theorem State.enterGap_inputs : s.enterGap.inputs = s.inputs := rfl
@[simp] theorem State.enterResync_samp :
    s.enterResync.samp = { s.samp with sampState := .rsy, resyncCnt := 0 } := rfl
@[simp] theorem State.enterResync_cfg : s.enterResync.cfg = s.cfg := rfl
@[simp] theorem State.enterResync_dec : s.enterResync.dec = s.dec := rfl
@[simp] theorem State.enterResync_events : s.enterResync.events = s.events := rfl
@[simp] theorem State.enterResync_sync : s.enterResync.sync = s.sync := rfl
@[simp] theorem State.enterResync_inputs : s.enterResync.inputs = s.inputs := rfl
@[simp] theorem State.decReset_dec : s.decReset.dec = s.dec.cleared := rfl
@[simp] theorem State.decReset_cfg : s.decReset.cfg = s.cfg := rfl
@[simp] theorem State.decReset_samp : s.decReset.samp = s.samp := rfl
@[simp] theorem State.decReset_events : s.decReset.events = s.events := rfl
@[simp] theorem State.decReset_sync : s.decReset.sync = s.sync := rfl
@[simp] theorem State.decReset_inputs : s.decReset.inputs = s.inputs := rfl
@[simp] theorem State.goto_quiet (st : SampState) : (s.goto st).quiet = s.quiet := rfl
@[simp] theorem State.goto_freeIdx (st : SampState) : (s.goto st).freeIdx = s.freeIdx := rfl
@[simp] theorem State.enterStartWait_quiet : s.enterStartWait.quiet = s.quiet := rfl
@[simp] theorem State.enterStartWait_freeIdx : s.enterStartWait.freeIdx = s.freeIdx := rfl
@[simp] theorem State.enterGap_quiet : s.enterGap.quiet = s.quiet := rfl
@[simp] theorem State.enterGap_freeIdx : s.enterGap.freeIdx = s.freeIdx := rfl
@[simp] theorem State.enterResync_quiet : s.enterResync.quiet = s.quiet := rfl
@[simp] theorem State.enterResync_freeIdx : s.enterResync.freeIdx = s.freeIdx := rfl
@[simp] theorem State.decReset_quiet : s.decReset.quiet = s.quiet := rfl
@[simp] theorem State.decReset_freeIdx : s.decReset.freeIdx = s.freeIdx := rfl
end Entering

section Offer
variable (s : State) (i : Input)
@[simp] theorem State.offer_inputs : (s.offer i).inputs = .poll i :: s.inputs := rfl
@[simp] theorem State.offer_cfg : (s.offer i).cfg = s.cfg := rfl
@[simp] theorem State.offer_samp : (s.offer i).samp = s.samp := rfl
@[simp] theorem State.offer_dec : (s.offer i).dec = s.dec := rfl
@[simp] theorem State.offer_events : (s.offer i).events = s.events := rfl
@[simp] theorem State.offer_quiet : (s.offer i).quiet = s.quiet := rfl
@[simp] theorem State.offer_sync : (s.offer i).sync = s.sync := rfl
@[simp] theorem State.offer_freeIdx : (s.offer i).freeIdx = s.freeIdx := rfl
end Offer

section Cleared
variable (d : Decoder)
@[simp] theorem Decoder.cleared_brk : d.cleared.brk = false := rfl
@[simp] theorem Decoder.cleared_ext : d.cleared.ext = false := rfl
@[simp] theorem Decoder.cleared_pause : d.cleared.pause = false := rfl
@[simp] theorem Decoder.cleared_plen : d.cleared.plen = 0 := rfl
@[simp] theorem Decoder.cleared_pend : d.cleared.pend = d.pend := rfl
@[simp] theorem Decoder.cleared_pending : d.cleared.pending = [] := by simp [Decoder.pending]
end Cleared

end Sys2Proof.Machine
end

