-- ==== Sys2Proof/Machine/Ports.lean ====
section
/-! DEFINITION. The output ports (spec/10_state.md R39) as views of the state, and the codes and causes of events
(spec/30_encoding.md R82, spec/60_exceptions.md R200 to R207). Every strobe shows an event of the last step, and its
payload ports show that event's fields; the other outputs copy the state. -/

namespace Sys2Proof.Machine

/-! ### Codes and causes -/

/-- The kind code of an event, which is its cause code (R82, R207). -/
def Event.code : Event → Nat
  | .startTimeout => 1
  | .frame _ => 2
  | .resync _ => 3
  | .key _ => 4
  | .overflow _ => 5

/-- The entry of the error taxonomy that an event reports, if it reports one (R201 to R205). A parity mismatch is
none (R206). -/
def Event.cause : Event → Option Cause
  | .startTimeout => some .frameTimeout
  | .frame f => if f.valid then none else some (.frameInvalid (f.word.getLsbD 0))
  | .resync ok => if ok then none else some .resyncTimeout
  | .key k => if k.keyId = 0x00#8 then some .unknownScanCode else none
  | .overflow _ => some .sequenceOverflow

/-- `KeyEvent.keyName` of a key event (R84, R87). -/
def KeyReport.keyName (c : Cfg) (k : KeyReport) : Option String := c.keyName k.keyId k.extended k.code

/-! ### The event of each kind among the last step's events -/

def Event.asFrame : Event → Option FrameReport
  | .frame f => some f
  | _ => none

def Event.asKey : Event → Option KeyReport
  | .key k => some k
  | _ => none

def Event.asResync : Event → Option Bit
  | .resync ok => some ok
  | _ => none

def Event.asOverflow : Event → Option (List Byte)
  | .overflow raw => some raw
  | _ => none

def State.frameEvent (s : State) : Option FrameReport := s.events.findSome? Event.asFrame
def State.keyEvent (s : State) : Option KeyReport := s.events.findSome? Event.asKey
def State.resyncEvent (s : State) : Option Bit := s.events.findSome? Event.asResync
def State.overflowEvent (s : State) : Option (List Byte) := s.events.findSome? Event.asOverflow

/-- The raw bytes of EV_KEY or EV_OVERFLOW (R39). -/
def State.rawEvent (s : State) : Option (List Byte) := (s.keyEvent.map KeyReport.raw).or s.overflowEvent

/-! ### Strobes -/

def State.evTimeoutO (s : State) : Bit := s.events.contains .startTimeout
def State.evFrameO (s : State) : Bit := s.frameEvent.isSome
def State.evResyncO (s : State) : Bit := s.resyncEvent.isSome
def State.evKeyO (s : State) : Bit := s.keyEvent.isSome
def State.evOverflowO (s : State) : Bit := s.overflowEvent.isSome

/-! ### Payload ports -/

/-- `raw_bytes_o`: entry 0 received first, and 0x00 at `raw_len_o` and above (R39). -/
def paddedRaw (raw : List Byte) : Vector Byte 9 := Vector.ofFn fun i => raw.getD i.val 0x00#8

/-- All payload ports of R39: the fields of the event whose strobe is high, and `quiet` where none is. -/
def State.payload (s : State) : Payload where
  frameWord := (s.frameEvent.map FrameReport.word).getD s.quiet.frameWord
  frameByte := (s.frameEvent.map fun f => frameByte f.word).getD s.quiet.frameByte
  frameValid := (s.frameEvent.map FrameReport.valid).getD s.quiet.frameValid
  frameParityOk := (s.frameEvent.map FrameReport.parityOk).getD s.quiet.frameParityOk
  resyncOk := s.resyncEvent.getD s.quiet.resyncOk
  keyId := (s.keyEvent.map KeyReport.keyId).getD s.quiet.keyId
  keyCode := (s.keyEvent.map KeyReport.code).getD s.quiet.keyCode
  keyRelease := (s.keyEvent.map fun k => directionBit k.direction).getD s.quiet.keyRelease
  keyExtended := (s.keyEvent.map KeyReport.extended).getD s.quiet.keyExtended
  rawLen := (s.rawEvent.map fun r => BitVec.ofNat 4 r.length).getD s.quiet.rawLen
  rawBytes := (s.rawEvent.map paddedRaw).getD s.quiet.rawBytes

/-! ### Copies of the state -/

/-- `state_o`: the 4-bit code of `samp_state` (R39, R74). -/
def State.stateO (s : State) : StateCode := s.samp.sampState.code
def State.decBreakO (s : State) : Bit := s.dec.brk
def State.decExtO (s : State) : Bit := s.dec.ext
def State.decPauseO (s : State) : Bit := s.dec.pause
/-- `dec_plen_o`, 4 bits. -/
def State.decPlenO (s : State) : BitVec 4 := BitVec.ofNat 4 s.dec.plen.val

end Sys2Proof.Machine
end

