-- ==== Sys2Proof/Machine/StimulusNotation.lean ====
section
/-! DEFINITION. The stimulus notation, which stands in for an assembler (spec/30_encoding.md R89 to R92): statements,
the inputs they stand for, and what a poll is at the pins (spec/10_state.md R38, decision D19). -/

namespace Sys2Proof.Machine

/-- One statement of the notation (R89 to R92). -/
inductive Stmt where
  /-- `S cd` -/
  | s (l : Line)
  /-- `RESET cd` -/
  | reset (l : Line)
  /-- `CANCEL cd` -/
  | cancel (l : Line)
  /-- `FRAME v start=s par=p stop=t` -/
  | frame (v : Byte) (start par stop : Bit)
  /-- `BYTES b0 ... bn` -/
  | bytes (bs : List Byte)
  /-- `IDLE n` -/
  | idle (n : Nat)
  /-- `HOLD cd n` -/
  | hold (l : Line) (n : Nat)
deriving DecidableEq, Repr

/-- `S cd`: the input word {0, 0, c, d} (R89). -/
def sample (c d : Bit) : Input := { rst := false, cancel := false, clk := c, data := d }

/-- The two polls of one slot whose bit is b: `S 0b ; S 1b` (R90). -/
def slot (b : Bit) : List Input := [sample false b, sample true b]

/-- The eight data slots of a byte, LSB first (R57, R90). -/
def dataSlots (v : Byte) : List Input := (List.range 8).flatMap fun i => slot (v.getLsbD i)

/-- The 21 samples of `FRAME v start=s par=p stop=t` (R90). -/
def frameSamples (v : Byte) (start par stop : Bit) : List Input :=
  slot start ++ dataSlots v ++ slot par ++ [sample false stop]

/-- The 22 samples of one byte of `BYTES` (R91). -/
def byteSamples (b : Byte) : List Input :=
  frameSamples b false (oddParityBit b) true ++ [sample true true]

/-- The inputs a statement stands for, one per step (R89 to R92). -/
def Stmt.inputs : Stmt → List Input
  | .s l => [sample l.clk l.data]
  | .reset l => [{ rst := true, cancel := false, clk := l.clk, data := l.data }]
  | .cancel l => [{ rst := false, cancel := true, clk := l.clk, data := l.data }]
  | .frame v start par stop => frameSamples v start par stop
  | .bytes bs => bs.flatMap byteSamples
  | .idle n => List.replicate n (sample true true)
  | .hold l n => List.replicate n (sample l.clk l.data)

/-- `FRAME v` with every default: `s = 0`, odd parity, `t = 1` (R90). -/
def Stmt.frameOf (v : Byte) : Stmt := .frame v false (oddParityBit v) true

/-- A program: one statement after the other. -/
def assemble (p : List Stmt) : List Input := p.flatMap Stmt.inputs

/-- A program as stimuli, one poll per step. -/
def polls (is : List Input) : List Stimulus := is.map .poll

/-- A program placed before the block's next step. -/
def State.load (s : State) (p : List Stmt) : State := { s with inputs := polls (assemble p) ++ s.inputs }

/-- The cycles of the system clock of one poll: `P_POLL_DIV` of them, the last with `tick_i` = 1 (D19, R243). -/
def pollCycles (c : Cfg) (p : Pins) : List Stimulus :=
  List.replicate (c.pollDiv - 1) (.cycle { p with tick := false }) ++ [.cycle { p with tick := true }]

end Sys2Proof.Machine
end

