-- ==== Sys2Proof/Safety.lean ====
section
/-! DEFINITION. What claims speak of: runs and their observation (spec/00_scope.md R15), and the invariants of the
spec (spec/10_state.md R23 to R26, R34). -/

namespace Sys2Proof.Machine

/-! ### Runs -/

/-- n steps. -/
def run (n : Nat) (s : State) : Host.Outcome State Fault Refusal := Sys2Proof.core.run n s

/-- The next stimulus is a cycle of the system clock in which the block takes no step (R38). -/
def State.holds (s : State) : Bool :=
  match takeStimulus s with
  | .hold _ => true
  | .tick _ _ => false

/-- THE OBSERVATION of a run of n stimuli: the event list of each step of the block, in order (R15). A cycle without
a poll is no step and adds nothing, and the observation ends where a run stops. -/
def trace : Nat → State → List (List Event)
  | 0, _ => []
  | n + 1, s =>
    match step s with
    | .next t => if s.holds then trace n t else t.events :: trace n t
    | .fault _ => []
    | .refused _ => []

/-- Neither reset nor cancel is asserted: a statement `S cd` (R89). -/
def Plain (i : Input) : Prop := i.rst = false ∧ i.cancel = false

/-- The events of the Scan-Code State Machine: EV_KEY and EV_OVERFLOW (R150 to R156). -/
def Event.ofDecoder : Event → Bool
  | .key _ => true
  | .overflow _ => true
  | .startTimeout => false
  | .frame _ => false
  | .resync _ => false

/-- A sequence of bytes given to the decoder, first byte first (R150). -/
def consumeAll (bs : List Byte) (s : State) : State := bs.foldl (fun t b => consume b t) s

/-! ### What the ports show -/

/-- The five strobes in the order of their kind codes: `ev_timeout_o`, `ev_frame_o`, `ev_resync_o`, `ev_key_o`,
`ev_overflow_o` (R39, R82). -/
def State.strobes (s : State) : List Bit := [s.evTimeoutO, s.evFrameO, s.evResyncO, s.evKeyO, s.evOverflowO]

/-- The four payload ports of `ev_frame_o` show a frame report (R39). -/
structure ShowsFrame (s : State) (f : FrameReport) : Prop where
  word : s.payload.frameWord = f.word
  byte : s.payload.frameByte = f.word.extractLsb' 1 8
  valid : s.payload.frameValid = f.valid
  parityOk : s.payload.frameParityOk = f.parityOk

/-- `raw_len_o` and `raw_bytes_o` show at most nine raw bytes, the entries above them 0x00 (R39). -/
structure ShowsRaw (s : State) (raw : List Byte) : Prop where
  length : raw.length ≤ 9 → s.payload.rawLen.toNat = raw.length
  bytes : ∀ j (_ : j < 9), s.payload.rawBytes[j] = raw.getD j 0x00#8

/-- The payload ports of `ev_key_o` show a key event (R39). -/
structure ShowsKey (s : State) (k : KeyReport) : Prop where
  keyId : s.payload.keyId = k.keyId
  code : s.payload.keyCode = k.code
  release : s.payload.keyRelease = true ↔ k.direction = .release
  extended : s.payload.keyExtended = k.extended
  raw : ShowsRaw s k.raw

/-! ### Invariants -/

/-- Each counter holds only the values R23 to R25 give it: "No counter ever wraps" (R26). With `P_GAP` = 0 the state
GAP is never entered and `gap_cnt` stays 0 (R25). -/
structure CountersInRange (s : State) : Prop where
  start : s.samp.startCnt ≤ s.cfg.raw.startTimeout - 1
  resync : s.samp.resyncCnt ≤ s.cfg.raw.resyncTimeout - 1
  gap : s.samp.gapCnt ≤ s.cfg.raw.gap - 1
  gapEntered : s.samp.sampState = .gap → 1 ≤ s.cfg.raw.gap

/-- The invariants of the decoder state (R34, items 1 to 5; item 1 is the type of `plen`). -/
structure DecoderInv (d : Decoder) : Prop where
  /-- item 2: every pending byte after the first is 0xE0 or 0xF0 -/
  tail : ∀ b ∈ d.pending.tail, b = 0xE0#8 ∨ b = 0xF0#8
  /-- item 3: the first pending byte is a prefix byte -/
  head : ∀ b ∈ d.pending.head?, b = 0xE0#8 ∨ b = 0xE1#8 ∨ b = 0xF0#8
  /-- item 4: `dec_pause` says that the first pending byte is 0xE1 -/
  pauseIff : d.pause = true ↔ d.pending.head? = some 0xE1#8
  /-- item 5: with nothing pending every flag is 0 -/
  empty : d.plen = 0 → d.brk = false ∧ d.ext = false ∧ d.pause = false

/-- The bits of `frm_data` that the frame in progress has not sampled yet are 0, so writing a bit is the source's
OR-accumulation (R28, R103). -/
def FrameBitsFresh (x : Sampler) : Prop :=
  match x.sampState with
  | .wsh => x.frmData = 0x00#8
  | .wbl => ∀ j : Fin 8, x.bitIdx ≤ j → x.frmData.getLsbD j.val = false
  | .wbh => ∀ j : Fin 8, x.bitIdx < j → x.frmData.getLsbD j.val = false
  | _ => True

/-- Both lines pass through `P_SYNC_STAGES` flops (R38, R241). -/
def SyncLength (s : State) : Prop := s.sync.length = s.cfg.raw.syncStages

/-- THE INVARIANT of the block. -/
structure Inv (s : State) : Prop where
  counters : CountersInRange s
  decoder : DecoderInv s.dec
  frame : FrameBitsFresh s.samp
  sync : SyncLength s

/-- What a step that sees this input may emit in this state: the table of R209, with the class of the frame word and
of the byte that decides among the rows of WTL. -/
def EventsOfStep (s : State) (i : Input) (evs : List Event) : Prop :=
  if i.rst = true ∨ i.cancel = true then evs = []
  else match s.samp.sampState with
    | .wsl => evs = [] ∨ evs = [.startTimeout]
    | .wsh | .wbl | .wbh | .wpl | .wph | .gap | .hlt => evs = []
    | .rsy => evs = [] ∨ ∃ ok, evs = [.resync ok]
    | .wtl =>
      if i.clk = true then evs = []
      else match classifyFrame (s.samp.frameWord i.data) with
        | .badStart _ _ _ | .badStop _ _ => evs = [.frame (validate (s.samp.frameWord i.data))]
        | .valid _ value =>
          match classifyByte value with
          | .pause => evs = [.frame (validate (s.samp.frameWord i.data))]
          | .ext | .brk =>
            if s.dec.plen = 8
            then ∃ raw, evs = [.frame (validate (s.samp.frameWord i.data)), .overflow raw]
            else evs = [.frame (validate (s.samp.frameWord i.data))]
          | .terminal b =>
            ∃ k : KeyReport, k.code = b ∧ evs = [.frame (validate (s.samp.frameWord i.data)), .key k]

end Sys2Proof.Machine
end

