-- ==== Sys2Proof/Certificates/Slice0/Obligations.lean ====
section
/-! DEFINITION. The statements for the provers. Each says in its docstring which rule of spec/ it formalises, and one
that rests on a choice of the model names its log entry. -/

open Sys2Proof Sys2Proof.Machine

/-! ### Encoding -/

/-- No bit of an encoding is dropped: every well-formed instruction is what the decoder reads from its word
(spec/30_encoding.md; the rows of spec/opcode_table.json). -/
def Obligations.DecodeOfEncodeIsTheInstruction : Prop :=
  ∀ i : Instr, i.wf = true → decode (encode i) = .ok i

/-- The other direction: a word that decodes is the word its instruction encodes to, so no two words of a format
share an instruction, and what decodes is well-formed. -/
def Obligations.EncodeOfDecodeIsTheWord : Prop :=
  ∀ (c : Code) (i : Instr), decode c = .ok i → encode i = c ∧ i.wf = true

/-- R76: T = {samp_state[3:0], L[1], L[0]}, and every one of the 40 legal values matches exactly one transition row,
the row of the instruction it decodes to. -/
def Obligations.EveryTransitionWordMatchesExactlyOneRow : Prop :=
  ∀ (st : SampState) (l : Line),
    ((transitionWord st l).extractLsb' 2 4 = st.code
      ∧ (transitionWord st l).getLsbD 1 = l.clk ∧ (transitionWord st l).getLsbD 0 = l.data)
    ∧ ∃ i, decode (.transition (transitionWord st l)) = .ok i
      ∧ transitionRows.filter (fun r => r.matchesCode (.transition (transitionWord st l))) = [i.row]

/-- R74, R75: the codes 0xA to 0xF are reserved; the model has no state for them, and the decoder refuses exactly
the words that hold one. -/
def Obligations.ReservedStateCodesAreRefused : Prop :=
  ∀ t : TransitionWord,
    decode (.transition t) = .error .reservedStateCode ↔ 0xA ≤ (t.extractLsb' 2 4).toNat

/-- R73: the class of a frame word is decided by F[0] and F[10], and every frame word has one; the byte is F[8:1] in
every class. -/
def Obligations.FrameClassIsDecidedByStartAndStop : Prop :=
  ∀ f : FrameWord,
    (f.getLsbD 0 = false → f.getLsbD 10 = true →
      decode (.frame f) = .ok (.frameValid (f.getLsbD 9) (f.extractLsb' 1 8)))
    ∧ (f.getLsbD 0 = true →
      decode (.frame f) = .ok (.frameBadStart (f.getLsbD 10) (f.getLsbD 9) (f.extractLsb' 1 8)))
    ∧ (f.getLsbD 0 = false → f.getLsbD 10 = false →
      decode (.frame f) = .ok (.frameBadStop (f.getLsbD 9) (f.extractLsb' 1 8)))

/-- R77: 0xE0, 0xE1 and 0xF0 are the three prefixes, and every other byte is TERMINAL. -/
def Obligations.ScanByteClasses : Prop :=
  decode (.scanByte 0xE0#8) = .ok .pfxExt ∧ decode (.scanByte 0xE1#8) = .ok .pfxPause
    ∧ decode (.scanByte 0xF0#8) = .ok .pfxBreak
    ∧ ∀ b : Byte, b ≠ 0xE0#8 → b ≠ 0xE1#8 → b ≠ 0xF0#8 → decode (.scanByte b) = .ok (.terminal b)

/-- Words written out from the spec's encodings decode to the rows they stand for (a sanity statement): a transition
word of WSL, of WBL and of RSY, the frame word 0x438 of byte 0x1C (R72), the byte 0x1C, and the digits B and 7 of
the program notation (R89). -/
def Obligations.SpecWordsDecode : Prop :=
  decode (.transition 0b000001#6) = .ok (.wslClkLow true)
    ∧ decode (.transition 0b001010#6) = .ok (.wblClkHigh false)
    ∧ decode (.transition 0b100011#6) = .ok .rsyIdle
    ∧ decode (.frame 0b10000111000#11) = .ok (.frameValid false 0x1C#8)
    ∧ decode (.frame 0x439#11) = .ok (.frameBadStart true false 0x1C#8)
    ∧ decode (.scanByte 0x1C#8) = .ok (.terminal 0x1C#8)
    ∧ decode (.control 0b1011#4) = .ok (.reset false true true)
    ∧ decode (.control 0b0111#4) = .ok (.cancel true true)

/-! ### Configuration and reset -/

/-- R9 and R181: a configuration that breaks a constraint of R8 is refused: a start budget, a resync budget or a poll
divider of 0, a ROM word that names no key (R80), or an entry of R181 that is not met. Every configuration that meets
them all is accepted and gives the block after reset. The model's choices in it: the ROMs and the names in the model's
form (log entries 14 and 16), refusal by `configure` (log entry 17), and that the words at the prefix bytes, which are
never read (R183), need no name (log entry 20). -/
def Obligations.BadConfigurationsAreRefused : Prop :=
  (∀ c : Cfg,
    (c.startTimeout = 0 ∨ c.resyncTimeout = 0 ∨ c.pollDiv = 0
      ∨ (∃ (ns : Namespace) (a : Byte),
        isPrefix a = false ∧ c.romRead ns a ≠ 0x00#8 ∧ c.nameOf (c.romRead ns a) = none)
      ∨ c.nameOf (Rom.read c.baseRom 0x1C#8) ≠ some "A" ∨ c.nameOf (Rom.read c.extRom 0x75#8) ≠ some "UP"
      ∨ Rom.read c.baseRom 0x02#8 ≠ 0x00#8) →
    configure c = .refused .invalidConfiguration)
  ∧ (∀ c : Cfg, 1 ≤ c.startTimeout → 1 ≤ c.resyncTimeout → 1 ≤ c.pollDiv →
    Rom.wf c.baseRom = true → Rom.wf c.extRom = true → KeyNames.wf 0x00#8 c.keyNames = true →
    (∀ (ns : Namespace) (a : Byte), isPrefix a = false → c.romRead ns a ≠ 0x00#8 →
      ∃ name, c.nameOf (c.romRead ns a) = some name) →
    c.nameOf (Rom.read c.baseRom 0x1C#8) = some "A" → c.nameOf (Rom.read c.extRom 0x75#8) = some "UP" →
    Rom.read c.baseRom 0x02#8 = 0x00#8 →
    ∃ v : Cfg.Valid, v.raw = c ∧ configure c = .next (State.resetWith v))
  ∧ ∀ v : Cfg.Valid, configure v.raw = .next (State.resetWith v)

/-- R43: the value of every field after reset; and the synchronizers are preset HIGH (R233, decision D18). -/
def Obligations.ResetStateHoldsTheSpecValues : Prop :=
  State.reset.samp.sampState = .wsl ∧ State.reset.samp.bitIdx = 0 ∧ State.reset.samp.startCnt = 0
    ∧ State.reset.samp.resyncCnt = 0 ∧ State.reset.samp.gapCnt = 0 ∧ State.reset.samp.frmStart = false
    ∧ State.reset.samp.frmData = 0x00#8 ∧ State.reset.samp.frmParity = false
    ∧ State.reset.dec.brk = false ∧ State.reset.dec.ext = false ∧ State.reset.dec.pause = false
    ∧ State.reset.dec.plen = 0 ∧ State.reset.dec.pend = Vector.replicate 8 0x00#8
    ∧ (State.reset.evTimeoutO = false ∧ State.reset.evFrameO = false ∧ State.reset.evResyncO = false
      ∧ State.reset.evKeyO = false ∧ State.reset.evOverflowO = false)
    ∧ State.reset.payload = Payload.zero
    ∧ ∀ l ∈ State.reset.sync, l.clk = true ∧ l.data = true

/-- R230 for the row RESET: it completes in every state, whatever the other three input bits are. -/
def Obligations.ResetRowWritesEveryField : Prop :=
  ∀ (k c d : Bit) (s : State),
    exec (.reset k c d) s = .next
      { s with
        samp := State.reset.samp, dec := State.reset.dec, events := [], quiet := Payload.zero
        sync := List.replicate s.cfg.raw.syncStages { clk := true, data := true } }

/-- R230: a step with rst = 1 writes every field to its reset value and emits nothing, whatever cancel, the sample and
the state are, and at the pins it does so whether or not `tick_i` is high. -/
def Obligations.ResetWinsInEveryStep : Prop :=
  ∀ (s : State) (rest : List Stimulus),
    ((∃ i : Input, i.rst = true ∧ s.inputs = .poll i :: rest)
      ∨ (∃ p : Pins, p.rst = true ∧ s.inputs = .cycle p :: rest)) →
    ∃ t, step s = .next t ∧ t.samp = State.reset.samp ∧ t.dec = State.reset.dec ∧ t.events = []
      ∧ t.quiet = Payload.zero ∧ t.sync = syncPreset s.cfg ∧ t.cfg = s.cfg ∧ t.inputs = rest

/-- R212: CANCEL sets `samp_state` to HLT, writes no other field and emits no event; a step with cancel = 1 and
rst = 0 runs it in every state. -/
def Obligations.CancelHaltsAndWritesNothingElse : Prop :=
  (∀ (c d : Bit) (s : State),
    exec (.cancel c d) s = .next { s with samp := { s.samp with sampState := .hlt } })
  ∧ ∀ (s : State) (i : Input) (rest : List Stimulus),
    i.rst = false → i.cancel = true → s.inputs = .poll i :: rest →
    ∃ t, step s = .next t ∧ t.samp = { s.samp with sampState := .hlt } ∧ t.dec = s.dec ∧ t.events = []

/-! ### The step -/

/-- A STEP RUNS THE DECODED INSTRUCTION. The input of a told poll, or the free input when no stimulus is told (log entry
3), picks the word (the input word when reset or cancel is asserted, the transition word otherwise; R76, R100); when it
decodes to an instruction, the step is that instruction's meaning at the state with the stimulus taken, the event list
empty, and a free payload drawn (log entry 4). -/
def Obligations.StepRunsTheDecodedInstruction : Prop :=
  ∀ (s : State) (i : Input) (rest : List Stimulus) (instr : Instr),
    (s.inputs = .poll i :: rest ∨ s.inputs = [] ∧ rest = [] ∧ i = Config.freeInput s.freeIdx) →
    decode (if i.rst || i.cancel then .control i.word
      else .transition (transitionWord s.samp.sampState { clk := i.clk, data := i.data })) = .ok instr →
    step s = exec instr
      { s with
        inputs := rest, events := [], quiet := Config.freePayload s.freeIdx, freeIdx := s.freeIdx + 1 }

/-- R38: on a cycle without `tick_i` (and without `rst_i`) the block holds its state; with `tick_i` it takes one step,
reading both lines at the end of the synchronizers. Two inferences of the model stand in it, both DEDUCED: the flops
move on a tick (log entry 6), and `cancel_i` between two ticks is ignored (log entry 7). -/
def Obligations.StepIsTakenOnlyOnATick : Prop :=
  ∀ (s : State) (p : Pins) (rest : List Stimulus),
    p.rst = false → s.inputs = .cycle p :: rest →
    (p.tick = false → step s = .next { s with inputs := rest })
    ∧ (p.tick = true →
      step s = step
        { s with
          sync := syncShift s.sync { clk := p.ps2Clk, data := p.ps2Data }
          inputs := .poll
            { rst := false, cancel := p.cancel
              clk := (syncSample s.sync { clk := p.ps2Clk, data := p.ps2Data }).clk
              data := (syncSample s.sync { clk := p.ps2Clk, data := p.ps2Data }).data } :: rest })

/-- R233 item 4: while the flops still hold their preset, the first `P_SYNC_STAGES` ticks sample `11` whatever the
pins show. R38: from then on a tick samples what the pins showed `P_SYNC_STAGES` ticks before, whatever the flops held
at first, and without flops it samples the pins themselves. That the flops move on a tick is the model's inference
(log entry 6). -/
def Obligations.FirstTicksAfterResetSampleIdle : Prop :=
  (∀ (n : Nat) (pins : List Line) (pin : Line), pins.length < n →
    syncSample (pins.foldl syncShift (List.replicate n { clk := true, data := true })) pin
      = { clk := true, data := true })
  ∧ (∀ (flops : List Line) (first pin : Line) (later : List Line), (first :: later).length = flops.length →
    syncSample ((first :: later).foldl syncShift flops) pin = first)
  ∧ (∀ (flops earlier later : List Line) (first pin : Line), (first :: later).length = flops.length →
    syncSample ((earlier ++ first :: later).foldl syncShift flops) pin = first)
  ∧ ∀ (pins : List Line) (pin : Line), syncSample (pins.foldl syncShift []) pin = pin

/-- A poll takes `P_POLL_DIV` cycles of the system clock, and they do what its one tick does. Decision D19 and R243 give
the divider. Three inferences of the model stand in it, all DEDUCED: the strobe is an input whose waveform carries it in
the last cycle (log entry 18), `cancel_i` in the other cycles is ignored (log entry 7), and the other cycles do not move
the synchronizer flops (log entry 6). -/
def Obligations.APollOfManyCyclesIsOneStep : Prop :=
  ∀ (s : State) (p : Pins) (rest : List Stimulus), p.rst = false →
    s.inputs = pollCycles s.cfg.raw p ++ rest →
    run s.cfg.raw.pollDiv s = step { s with inputs := .cycle { p with tick := true } :: rest }

/-- R14: the step function is total; no state and no input stops the block (R200, "No condition in this core is
fatal"). -/
def Obligations.StepNeverStops : Prop := ∀ s : State, ∃ t, step s = .next t

/-- R40 and R53: no step writes the configuration, the ROMs and `KEY_NAMES` included. That it stands in State is the
model's choice (log entry 1), and so is that the stimuli are a list of which each step uses up one (log entry 3). -/
def Obligations.ConfigurationIsNeverWritten : Prop :=
  ∀ s t : State, step s = .next t → t.cfg = s.cfg ∧ t.inputs = s.inputs.tail

/-! ### Bit Sampler, rule by rule -/

/-- R101, both rows of WSL. -/
def Obligations.StartWaitSamplesCountsOrTimesOut : Prop :=
  (∀ (d : Bit) (s : State), exec (.wslClkLow d) s = .next
    { s with samp := { s.samp with frmStart := d, frmData := 0x00#8, startCnt := 0, sampState := .wsh } })
  ∧ (∀ (d : Bit) (s : State), s.samp.startCnt = s.cfg.raw.startTimeout - 1 →
    exec (.wslClkHigh d) s = .next
      { s with samp := { s.samp with startCnt := 0 }, events := s.events ++ [.startTimeout] })
  ∧ ∀ (d : Bit) (s : State), s.samp.startCnt ≠ s.cfg.raw.startTimeout - 1 →
    exec (.wslClkHigh d) s = .next { s with samp := { s.samp with startCnt := s.samp.startCnt + 1 } }

/-- R102, both rows of WSH. -/
def Obligations.StartHighWaitBeginsDataSlotZero : Prop :=
  ∀ (d : Bit) (s : State),
    exec (.wshClkHigh d) s = .next { s with samp := { s.samp with bitIdx := 0, sampState := .wbl } }
    ∧ exec (.wshClkLow d) s = .next s

/-- R103, both rows of WBL: bit `bit_idx` of `frm_data` becomes the data level, and the other bits are unchanged. -/
def Obligations.DataSlotWritesOneBit : Prop :=
  ∀ (d : Bit) (s : State),
    (∃ v : Byte,
      exec (.wblClkLow d) s = .next { s with samp := { s.samp with frmData := v, sampState := .wbh } }
      ∧ v.getLsbD s.samp.bitIdx.val = d
      ∧ ∀ j : Nat, j ≠ s.samp.bitIdx.val → v.getLsbD j = s.samp.frmData.getLsbD j)
    ∧ exec (.wblClkHigh d) s = .next s

/-- R104, both rows of WBH: slots 0 to 6 go on to the next slot, slot 7 to the parity slot with `bit_idx` left at 7. -/
def Obligations.DataSlotEndAdvancesOrGoesToParity : Prop :=
  ∀ (d : Bit) (s : State),
    (∀ j : Fin 8, s.samp.bitIdx.val < 7 → j.val = s.samp.bitIdx.val + 1 →
      exec (.wbhClkHigh d) s = .next { s with samp := { s.samp with bitIdx := j, sampState := .wbl } })
    ∧ (s.samp.bitIdx.val = 7 →
      exec (.wbhClkHigh d) s = .next { s with samp := { s.samp with sampState := .wpl } })
    ∧ exec (.wbhClkLow d) s = .next s

/-- R105 and R106, the rows of WPL and WPH. -/
def Obligations.ParitySlotSamplesTheParityBit : Prop :=
  ∀ (d : Bit) (s : State),
    exec (.wplClkLow d) s = .next { s with samp := { s.samp with frmParity := d, sampState := .wph } }
    ∧ exec (.wplClkHigh d) s = .next s
    ∧ exec (.wphClkHigh d) s = .next { s with samp := { s.samp with sampState := .wtl } }
    ∧ exec (.wphClkLow d) s = .next s

/-- R107, both rows of WTL. The stop sample makes F = {data, frm_parity, frm_data, frm_start}; the frame is reported;
a valid one (start 0, stop 1) gives its byte to the decoder (the row `instr` of that byte, with its events and decoder
writes) and goes to WSL or GAP, an invalid one goes to RSY. -/
def Obligations.StopSampleCompletesTheFrame : Prop :=
  ∀ (d : Bit) (s : State),
    exec (.wtlClkHigh d) s = .next s
    ∧ (s.samp.frmStart = false → d = true →
      ∀ instr, decode (.scanByte s.samp.frmData) = .ok instr →
      ∃ u t, exec instr
          { s with events := s.events ++ [.frame
            { word := bitWord d ++ bitWord s.samp.frmParity ++ s.samp.frmData ++ bitWord s.samp.frmStart
              value := s.samp.frmData, valid := true
              parityOk := (popcount s.samp.frmData + s.samp.frmParity.toNat) % 2 == 1 }] } = .next u
        ∧ exec (.wtlClkLow d) s = .next t
        ∧ t = { u with samp :=
            if s.cfg.raw.gap = 0 then { s.samp with sampState := .wsl, startCnt := 0 }
            else { s.samp with sampState := .gap, gapCnt := 0 } })
    ∧ (s.samp.frmStart = true ∨ d = false →
      exec (.wtlClkLow d) s = .next
        { s with
          samp := { s.samp with sampState := .rsy, resyncCnt := 0 }
          events := s.events ++ [.frame
            { word := bitWord d ++ bitWord s.samp.frmParity ++ s.samp.frmData ++ bitWord s.samp.frmStart
              value := s.samp.frmData, valid := false
              parityOk := (popcount s.samp.frmData + s.samp.frmParity.toNat) % 2 == 1 }] })

/-- R108, GAP: the lines are ignored, and the count ends in WSL with a fresh start budget. That `gap_cnt` keeps its
value there, as the pseudocode of R108 has it and R26 does not, is the model's choice (log entry 19). -/
def Obligations.GapCountsAndEnds : Prop :=
  ∀ (c d : Bit) (s : State),
    (s.samp.gapCnt = s.cfg.raw.gap - 1 →
      exec (.gapAny c d) s = .next { s with samp := { s.samp with sampState := .wsl, startCnt := 0 } })
    ∧ (s.samp.gapCnt ≠ s.cfg.raw.gap - 1 →
      exec (.gapAny c d) s = .next { s with samp := { s.samp with gapCnt := s.samp.gapCnt + 1 } })

/-- R109, HLT: nothing changes and nothing is emitted. -/
def Obligations.HaltedChangesNothing : Prop :=
  ∀ (c d : Bit) (s : State), exec (.hltAny c d) s = .next s

/-- R140, the three rows of RSY: idle is tested before the budget, both outcomes go to WSL with a fresh start budget.
That `resync_cnt` keeps its value at the limit, as the pseudocode of R140 has it and R26 does not, is the model's choice
(log entry 19). -/
def Obligations.ResyncReportsIdleOrTimesOut : Prop :=
  ∀ (d : Bit) (s : State),
    exec .rsyIdle s = .next
      { s with samp := { s.samp with sampState := .wsl, startCnt := 0 }, events := s.events ++ [.resync true] }
    ∧ (∀ i : Instr, i = .rsyClkLow d ∨ i = .rsyClkHighDataLow →
      (s.samp.resyncCnt = s.cfg.raw.resyncTimeout - 1 →
        exec i s = .next
          { s with
            samp := { s.samp with sampState := .wsl, startCnt := 0 }, events := s.events ++ [.resync false] })
      ∧ (s.samp.resyncCnt ≠ s.cfg.raw.resyncTimeout - 1 →
        exec i s = .next { s with samp := { s.samp with resyncCnt := s.samp.resyncCnt + 1 } }))

/-! ### Frame Validator -/

/-- R130: the OR-accumulation of the shifted data bits is F[8:1], and it is the value the validator reports. -/
def Obligations.ByteIsTheOrOfTheShiftedBits : Prop :=
  ∀ f : FrameWord, (validate f).value = accumulateByte f ∧ (validate f).value = f.extractLsb' 1 8
    ∧ ∀ i : Nat, i < 8 → (validate f).value.getLsbD i = f.getLsbD (1 + i)

/-- R131 and R132: `valid` is F[0] = 0 and F[10] = 1, and `parity_ok` says that the eight data bits and the parity bit
hold an odd number of ones. -/
def Obligations.ValidityAndParityOfAFrame : Prop :=
  ∀ f : FrameWord,
    ((validate f).valid = true ↔ f.getLsbD 0 = false ∧ f.getLsbD 10 = true)
    ∧ ((validate f).parityOk = true ↔ popcount (f.extractLsb' 1 9) % 2 = 1)

/-- R137: every byte comes out of the frame that carries it, for either parity bit; start 1 or stop 0 is never
valid. -/
def Obligations.EveryByteValidatesToItself : Prop :=
  ∀ (v : Byte) (start par stop : Bit),
    (validate (frameWordOf start v par stop)).value = v
    ∧ (validate (frameWordOf start v par stop)).valid = (!start && stop)

/-- R135 and R136: the three frame classes complete in every state; a valid frame is reported and its byte decoded in
the same step, the other two are reported, discarded and followed by RESYNC. -/
def Obligations.FrameClassesRouteTheByte : Prop :=
  ∀ (s : State) (p stop : Bit) (v : Byte),
    (∀ instr, decode (.scanByte v) = .ok instr →
      ∃ u t, exec instr (s.emit (.frame
          { word := frameWordOf false v p true, value := v, valid := true
            parityOk := (popcount v + p.toNat) % 2 == 1 })) = .next u
        ∧ exec (.frameValid p v) s = .next t
        ∧ t = { u with samp :=
            if s.cfg.raw.gap = 0 then { s.samp with sampState := .wsl, startCnt := 0 }
            else { s.samp with sampState := .gap, gapCnt := 0 } })
    ∧ exec (.frameBadStart stop p v) s = .next
        { s with
          samp := { s.samp with sampState := .rsy, resyncCnt := 0 }
          events := s.events ++ [.frame
            { word := frameWordOf true v p stop, value := v, valid := false
              parityOk := (popcount v + p.toNat) % 2 == 1 }] }
    ∧ exec (.frameBadStop p v) s = .next
        { s with
          samp := { s.samp with sampState := .rsy, resyncCnt := 0 }
          events := s.events ++ [.frame
            { word := frameWordOf false v p false, value := v, valid := false
              parityOk := (popcount v + p.toNat) % 2 == 1 }] }

/-- R133: with either parity bit a valid frame gives the same decoder transition, the same next state of the sampler
and the same events after its EV_FRAME. -/
def Obligations.ParityNeverGates : Prop :=
  ∀ (s : State) (p q : Bit) (v : Byte),
    ∃ t u, exec (.frameValid p v) s = .next t ∧ exec (.frameValid q v) s = .next u
      ∧ u.samp = t.samp ∧ u.dec = t.dec
      ∧ ∃ f g evs, t.events = s.events ++ .frame f :: evs ∧ u.events = s.events ++ .frame g :: evs
        ∧ f.word = frameWordOf false v p true ∧ g.word = frameWordOf false v q true
        ∧ f.value = v ∧ g.value = v ∧ f.valid = true ∧ g.valid = true

/-! ### Scan-Code State Machine -/

/-- R151, R153, R155 and R156. With fewer than 8 bytes pending, the prefix sets its flag and joins the buffer, without
an event. With 8 bytes pending, EV_OVERFLOW carries the nine bytes, no EV_KEY is emitted, every flag is 0 and the buffer
is empty afterwards (the reset wins over the flag write, R12). -/
def Obligations.PrefixAppendsOrOverflows : Prop :=
  ∀ s : State,
    (∀ h : s.dec.plen.val < 8,
      exec .pfxExt s = .next
        { s with dec := { s.dec with
          ext := true, pend := s.dec.pend.set s.dec.plen.val 0xE0#8, plen := ⟨s.dec.plen.val + 1, by omega⟩ } }
      ∧ exec .pfxBreak s = .next
        { s with dec := { s.dec with
          brk := true, pend := s.dec.pend.set s.dec.plen.val 0xF0#8, plen := ⟨s.dec.plen.val + 1, by omega⟩ } })
    ∧ (s.dec.plen = 8 →
      exec .pfxExt s = .next
        { s with
          dec := { s.dec with brk := false, ext := false, pause := false, plen := 0 }
          events := s.events ++ [.overflow (s.dec.pend.toList ++ [0xE0#8])] }
      ∧ exec .pfxBreak s = .next
        { s with
          dec := { s.dec with brk := false, ext := false, pause := false, plen := 0 }
          events := s.events ++ [.overflow (s.dec.pend.toList ++ [0xF0#8])] })

/-- R152: the buffer becomes [0xE1] and `dec_pause` is set; `dec_break` and `dec_ext` keep their values; no event. -/
def Obligations.PausePrefixRestartsTheBuffer : Prop :=
  ∀ s : State, ∃ t, exec .pfxPause s = .next t
    ∧ t.dec.pending = [0xE1#8] ∧ t.dec.pause = true ∧ t.dec.brk = s.dec.brk ∧ t.dec.ext = s.dec.ext
    ∧ (∀ j (_ : 0 < j) (_ : j < 8), t.dec.pend[j] = s.dec.pend[j])
    ∧ t = { s with dec := t.dec }

/-- R154, R157: one EV_KEY, with the ROM word of the selected namespace, the direction, the extended flag and the
pending bytes followed by the terminal byte; then `dec_reset()`, which leaves `dec_pend`. -/
def Obligations.TerminalByteEmitsOneKeyEvent : Prop :=
  ∀ (s : State) (b : Byte), exec (.terminal b) s = .next
    { s with
      dec := { s.dec with brk := false, ext := false, pause := false, plen := 0 }
      events := s.events ++ [.key
        { keyId := if s.dec.ext = true then Rom.read s.cfg.raw.extRom b else Rom.read s.cfg.raw.baseRom b
          code := b
          direction := if s.dec.brk = true then .release else .press
          extended := s.dec.ext
          raw := s.dec.pend.toList.take s.dec.plen.val ++ [b] }] }

/-- R10, R84 and R85: a key event of a step carries 1 to 9 raw bytes, the last of them its terminal byte, and an
overflow event carries exactly 9. -/
def Obligations.RawByteCounts : Prop :=
  ∀ s t : State, s.holds = false → step s = .next t →
    (∀ k : KeyReport, .key k ∈ t.events → 1 ≤ k.raw.length ∧ k.raw.length ≤ 9 ∧ k.raw.getLast? = some k.code)
    ∧ ∀ raw : List Byte, .overflow raw ∈ t.events → raw.length = 9

/-- R42 and R163: without reset, only the completion of a valid frame writes the decoder, through `consume`; a
timeout, an invalid frame, a resync, a gap and a cancel leave a partial prefix in place. -/
def Obligations.OnlyAValidFrameWritesTheDecoder : Prop :=
  ∀ (s t : State) (i : Input) (rest : List Stimulus),
    s.inputs = .poll i :: rest → i.rst = false → step s = .next t →
    t.dec =
      if i.cancel = false ∧ s.samp.sampState = .wtl ∧ i.clk = false
          ∧ s.samp.frmStart = false ∧ i.data = true
      then (consume s.samp.frmData s).dec else s.dec

/-- R164: no transition reads `dec_pause`: with the flag changed, a step emits the same events and differs in nothing
but the flag. -/
def Obligations.PauseFlagIsNeverRead : Prop :=
  ∀ (s t : State) (p : Bit), step s = .next t →
    ∃ q, step { s with dec := { s.dec with pause := p } }
      = .next { t with dec := { t.dec with pause := q } }

/-- R114: the sampler reads no decoder field: with any other decoder state a step does the same to the sampler and
emits the same events of the sampler, the validator and the resynchronizer. -/
def Obligations.SamplerIgnoresTheDecoder : Prop :=
  ∀ (s t : State) (d : Decoder), step s = .next t →
    ∃ u, step { s with dec := d } = .next u ∧ u.samp = t.samp ∧ u.sync = t.sync ∧ u.inputs = t.inputs
      ∧ (s.holds = false →
        u.events.filter (fun e => !e.ofDecoder) = t.events.filter (fun e => !e.ofDecoder))

/-- R166: eight 0xE0 or 0xF0 bytes from the empty decoder emit nothing, a ninth overflows with the nine bytes, and a
terminal byte instead gives a key event with nine raw bytes. -/
def Obligations.OverflowComesAtTheNinthPrefix : Prop :=
  ∀ (s : State) (bs : List Byte) (b c : Byte),
    s.dec.plen = 0 → bs.length = 8 → (∀ x ∈ bs, x = 0xE0#8 ∨ x = 0xF0#8) →
    (b = 0xE0#8 ∨ b = 0xF0#8) → isPrefix c = false →
    (consumeAll bs s).events = s.events
    ∧ (consumeAll (bs ++ [b]) s).events = s.events ++ [.overflow (bs ++ [b])]
    ∧ (consumeAll (bs ++ [b]) s).dec.pending = []
    ∧ ∃ k : KeyReport, (consumeAll (bs ++ [c]) s).events = s.events ++ [.key k] ∧ k.raw = bs ++ [c] ∧ k.code = c

/-- R166: after an 0xE1 the overflow comes at the 8th following 0xE0 or 0xF0, and any number of 0xE1 bytes never
overflows. -/
def Obligations.PausePrefixRestartsTheOverflowCount : Prop :=
  ∀ (s : State) (bs : List Byte) (n : Nat),
    bs.length = 8 → (∀ x ∈ bs, x = 0xE0#8 ∨ x = 0xF0#8) →
    (consumeAll (0xE1#8 :: bs.take 7) s).events = s.events
    ∧ (consumeAll (0xE1#8 :: bs) s).events = s.events ++ [.overflow (0xE1#8 :: bs)]
    ∧ (consumeAll (List.replicate n 0xE1#8) s).events = s.events

/-- R165: the Pause key's make sequence gives four key events and no overflow. -/
def Obligations.PauseSequenceGivesFourKeyEvents : Prop :=
  ∀ s : State, s.dec.plen = 0 → s.dec.brk = false → s.dec.ext = false →
    (consumeAll [0xE1#8, 0x14#8, 0x77#8, 0xE1#8, 0xF0#8, 0x14#8, 0xF0#8, 0x77#8] s).events
      = s.events ++
        [.key ⟨Rom.read s.cfg.raw.baseRom 0x14#8, 0x14#8, .press, false, [0xE1#8, 0x14#8]⟩,
         .key ⟨Rom.read s.cfg.raw.baseRom 0x77#8, 0x77#8, .press, false, [0x77#8]⟩,
         .key ⟨Rom.read s.cfg.raw.baseRom 0x14#8, 0x14#8, .release, false, [0xE1#8, 0xF0#8, 0x14#8]⟩,
         .key ⟨Rom.read s.cfg.raw.baseRom 0x77#8, 0x77#8, .release, false, [0xF0#8, 0x77#8]⟩]

/-! ### Scan-code tables -/

/-- R181: under every configuration a model admits, byte 0x1C is "A", extended 0x75 is "UP" and byte 0x02 is named
"UNKNOWN_02". -/
def Obligations.SourceEntriesOfTheTables : Prop :=
  ∀ v : Cfg.Valid,
    v.raw.keyName (v.raw.lookup 0x1C#8 false) false 0x1C#8 = some "A"
    ∧ v.raw.keyName (v.raw.lookup 0x75#8 true) true 0x75#8 = some "UP"
    ∧ v.raw.keyName (v.raw.lookup 0x02#8 false) false 0x02#8 = some "UNKNOWN_02"

/-- R80, R87: every key event of a step has a name: that of its key id, or the fallback label of its byte when the ROM
does not map it. -/
def Obligations.EveryKeyEventHasAName : Prop :=
  ∀ (s t : State) (k : KeyReport), s.holds = false → step s = .next t → .key k ∈ t.events →
    ∃ name, k.keyName s.cfg.raw = some name
      ∧ (k.keyId = 0x00#8 → name = fallback k.extended k.code)
      ∧ (k.keyId ≠ 0x00#8 → s.cfg.raw.nameOf k.keyId = some name)

/-- The canonical form of a ROM (R50; log entry 14) is one: two ROMs in it that read the same at every address are the
same list. -/
def Obligations.CanonicalRomsThatReadTheSameAreEqual : Prop :=
  ∀ r q : Rom, Rom.wf r = true → Rom.wf q = true → (∀ a : Byte, Rom.read r a = Rom.read q a) → r = q

/-! ### Events and outputs -/

/-- R209: the event list of a step is one the table admits for the state, the frame word and the byte of the step. -/
def Obligations.EventListsOfEachStep : Prop :=
  ∀ (s t : State) (i : Input) (rest : List Stimulus),
    s.inputs = .poll i :: rest → step s = .next t → EventsOfStep s i t.events

/-- R39: for each event list that R209 admits, the strobes of its events are high and the others low, and the payload
ports of a high strobe show its event; the other outputs are copies of the state. -/
def Obligations.PortsShowTheEventsOfTheStep : Prop :=
  ∀ s : State,
    (s.events = [] → s.strobes = [false, false, false, false, false])
    ∧ (s.events = [.startTimeout] → s.strobes = [true, false, false, false, false])
    ∧ (∀ f, s.events = [.frame f] → s.strobes = [false, true, false, false, false] ∧ ShowsFrame s f)
    ∧ (∀ ok, s.events = [.resync ok] → s.strobes = [false, false, true, false, false] ∧ s.payload.resyncOk = ok)
    ∧ (∀ f k, s.events = [.frame f, .key k] →
      s.strobes = [false, true, false, true, false] ∧ ShowsFrame s f ∧ ShowsKey s k)
    ∧ (∀ f raw, s.events = [.frame f, .overflow raw] →
      s.strobes = [false, true, false, false, true] ∧ ShowsFrame s f ∧ ShowsRaw s raw)
    ∧ s.stateO = s.samp.sampState.code ∧ s.decBreakO = s.dec.brk ∧ s.decExtO = s.dec.ext
    ∧ s.decPauseO = s.dec.pause ∧ s.decPlenO.toNat = s.dec.plen.val

/-- R82 and R201 to R207: the kind codes, the cause of each event of a step (a frame is FrameInvalid with the sub-cause
F[0] exactly when it is not valid, a resync is ResyncTimeout only with ok = 0, a key event is UnknownScanCode exactly
when its key id is 0x00), in which state a cause arises, and the state it leads to. -/
def Obligations.ErrorTaxonomyOfEachStep : Prop :=
  (Event.startTimeout.code = 1 ∧ (∀ f, (Event.frame f).code = 2) ∧ (∀ ok, (Event.resync ok).code = 3)
    ∧ (∀ k, (Event.key k).code = 4) ∧ ∀ raw, (Event.overflow raw).code = 5)
  ∧ ∀ s t : State, s.holds = false → step s = .next t →
    (.startTimeout ∈ t.events →
      Event.startTimeout.cause = some .frameTimeout
        ∧ s.samp.sampState = .wsl ∧ t.samp.sampState = .wsl ∧ t.samp.startCnt = 0 ∧ t.dec = s.dec)
    ∧ (∀ f, .frame f ∈ t.events →
      s.samp.sampState = .wtl
      ∧ (f.word.getLsbD 0 = false → f.word.getLsbD 10 = true → (Event.frame f).cause = none)
      ∧ (f.word.getLsbD 0 = true ∨ f.word.getLsbD 10 = false →
        (Event.frame f).cause = some (.frameInvalid (f.word.getLsbD 0))
          ∧ t.samp.sampState = .rsy ∧ t.samp.resyncCnt = 0 ∧ t.dec = s.dec))
    ∧ (∀ ok, .resync ok ∈ t.events →
      s.samp.sampState = .rsy ∧ t.samp.sampState = .wsl ∧ t.samp.startCnt = 0 ∧ t.dec = s.dec
        ∧ (Event.resync ok).cause = if ok = true then none else some .resyncTimeout)
    ∧ (∀ k, .key k ∈ t.events →
      ((Event.key k).cause = some .unknownScanCode ↔ k.keyId = 0x00#8)
        ∧ ((Event.key k).cause = none ↔ k.keyId ≠ 0x00#8)
        ∧ t.dec = { s.dec with brk := false, ext := false, pause := false, plen := 0 })
    ∧ ∀ raw, .overflow raw ∈ t.events →
      (Event.overflow raw).cause = some .sequenceOverflow ∧ s.dec.plen = 8
        ∧ t.dec = { s.dec with brk := false, ext := false, pause := false, plen := 0 }

/-! ### Invariants -/

/-- The invariant holds after reset, under whatever configuration was installed. -/
def Obligations.InvariantHoldsAtReset : Prop := Inv State.reset

/-- R26 and R34 (and R103 for the fresh bits of `frm_data`): from EVERY state that meets it, a step keeps the
invariant: the counters stay in range and never wrap, the decoder state meets items 1 to 5, and GAP is entered only
when `P_GAP` is not 0. -/
def Obligations.EveryStepKeepsTheInvariant : Prop :=
  ∀ s t : State, Inv s → step s = .next t → Inv t

/-- R141: RSY is entered only from WTL, by a frame with `valid` = 0. -/
def Obligations.ResyncIsEnteredOnlyAfterAnInvalidFrame : Prop :=
  ∀ s t : State, step s = .next t → t.samp.sampState = .rsy → s.samp.sampState ≠ .rsy →
    s.samp.sampState = .wtl ∧ ∃ f, .frame f ∈ t.events ∧ f.valid = false

/-! ### Runs -/

/-- R109, R213, R232: in HALTED, any number of polls without reset changes neither the sampler nor the decoder and
emits nothing. -/
def Obligations.OnlyResetLeavesHalted : Prop :=
  ∀ (s : State) (is : List Input) (rest : List Stimulus),
    s.samp.sampState = .hlt → s.inputs = polls is ++ rest → (∀ i ∈ is, i.rst = false) →
    ∃ t, run is.length s = .next t ∧ t.samp = s.samp ∧ t.dec = s.dec ∧ t.inputs = rest
      ∧ trace is.length s = List.replicate is.length []

/-- R112, R237: a mid-frame wait has no bound: for as long as the clock stays at the level it has in that state, no
number of polls changes the sampler or the decoder or emits an event. -/
def Obligations.MidFrameWaitsAreUnbounded : Prop :=
  ∀ (s : State) (is : List Input) (rest : List Stimulus) (level : Bit),
    ((s.samp.sampState = .wsh ∨ s.samp.sampState = .wbh ∨ s.samp.sampState = .wph) ∧ level = false
      ∨ (s.samp.sampState = .wbl ∨ s.samp.sampState = .wpl ∨ s.samp.sampState = .wtl) ∧ level = true) →
    s.inputs = polls is ++ rest → (∀ i ∈ is, Plain i ∧ i.clk = level) →
    ∃ t, run is.length s = .next t ∧ t.samp = s.samp ∧ t.dec = s.dec ∧ t.inputs = rest
      ∧ trace is.length s = List.replicate is.length []

/-- R101, R201: with a fresh budget in WSL, EV_START_TIMEOUT comes on exactly the `P_START_TIMEOUT`-th consecutive
poll with the clock HIGH, and the block is back in WSL with a fresh budget. -/
def Obligations.StartTimeoutComesOnTheLastPollOfTheBudget : Prop :=
  ∀ (s : State) (is : List Input) (rest : List Stimulus),
    s.samp.sampState = .wsl → s.samp.startCnt = 0 → s.inputs = polls is ++ rest →
    (∀ i ∈ is, Plain i ∧ i.clk = true) → is.length = s.cfg.raw.startTimeout →
    ∃ t, run is.length s = .next t ∧ t.samp = s.samp ∧ t.dec = s.dec ∧ t.inputs = rest
      ∧ trace is.length s = List.replicate (s.cfg.raw.startTimeout - 1) [] ++ [[.startTimeout]]

/-- R108: GAP lasts exactly `P_GAP` polls, whatever the lines do, and ends in WSL. -/
def Obligations.GapLastsExactlyItsPolls : Prop :=
  ∀ (s : State) (is : List Input) (rest : List Stimulus),
    s.samp.sampState = .gap → s.samp.gapCnt = 0 → 1 ≤ s.cfg.raw.gap → s.inputs = polls is ++ rest →
    (∀ i ∈ is, Plain i) → is.length = s.cfg.raw.gap →
    (∀ k, k < is.length → ∃ t, run k s = .next t ∧ t.samp.sampState = .gap)
    ∧ ∃ t, run is.length s = .next t ∧ t.samp.sampState = .wsl ∧ t.samp.startCnt = 0 ∧ t.dec = s.dec
      ∧ t.inputs = rest ∧ trace is.length s = List.replicate is.length []

/-- R144: EV_RESYNC reports ok = 1 in the step of the first idle sample among the first `P_RESYNC_TIMEOUT`, and ok = 0
in the step of the last of them when none is idle. -/
def Obligations.ResyncSucceedsIffIdleIsSeenInTheWindow : Prop :=
  ∀ (s : State) (is : List Input) (rest : List Stimulus),
    s.samp.sampState = .rsy → s.samp.resyncCnt = 0 → s.inputs = polls is ++ rest →
    (∀ i ∈ is, Plain i) → is.length = s.cfg.raw.resyncTimeout →
    (∀ k i, is[k]? = some i → i.clk = true → i.data = true →
      (∀ j o, j < k → is[j]? = some o → ¬(o.clk = true ∧ o.data = true)) →
      ∃ t, run (k + 1) s = .next t ∧ t.samp.sampState = .wsl ∧ t.samp.startCnt = 0 ∧ t.dec = s.dec
        ∧ trace (k + 1) s = List.replicate k [] ++ [[.resync true]])
    ∧ ((∀ i ∈ is, ¬(i.clk = true ∧ i.data = true)) →
      ∃ t, run is.length s = .next t ∧ t.samp.sampState = .wsl ∧ t.samp.startCnt = 0 ∧ t.dec = s.dec
        ∧ trace is.length s = List.replicate (s.cfg.raw.resyncTimeout - 1) [] ++ [[.resync false]])

/-- R90, R115, R137 and L1.1, L1.2: the 21 samples of a frame, from the start wait, are received exactly: no event before the
21st step, and there EV_FRAME with the frame's bits; a valid frame's byte is decoded, an invalid one leads to RSY and
leaves the decoder alone. -/
def Obligations.FrameIsReceivedExactly : Prop :=
  ∀ (s : State) (v : Byte) (start par stop : Bit) (rest : List Stimulus),
    s.samp.sampState = .wsl → s.inputs = polls (frameSamples v start par stop) ++ rest →
    ∃ t, run 21 s = .next t ∧ t.inputs = rest ∧ trace 21 s = List.replicate 20 [] ++ [t.events]
      ∧ if start = false ∧ stop = true then
          t.dec = (consume v s).dec
          ∧ t.samp.sampState = (if s.cfg.raw.gap = 0 then .wsl else .gap)
          ∧ t.events = .frame ⟨frameWordOf start v par stop, v, true, parityIsOdd (frameWordOf start v par stop)⟩
              :: (consume v { s with events := [] }).events
        else
          t.dec = s.dec ∧ t.samp.sampState = .rsy
          ∧ t.events = [.frame
              ⟨frameWordOf start v par stop, v, false, parityIsOdd (frameWordOf start v par stop)⟩]

/-- R115: from WSL at least 20 steps of the block come before the step that completes a frame, whatever the lines and
the controls do. -/
def Obligations.NoFrameCompletesBeforeStep21 : Prop :=
  ∀ (s : State) (n k : Nat) (evs : List Event) (f : FrameReport), s.samp.sampState = .wsl →
    (trace n s)[k]? = some evs → .frame f ∈ evs → 20 ≤ k

/-- THE RECEIVER REFINES THE BYTE-LEVEL STATE MACHINE (R91, R150, R242): the samples of `BYTES bs`, with `P_GAP` at most
1 (the bound `P_GAP < g` of R235: these samples have g = 2), take 22 steps a byte, leave the decoder as the bytes given
to `consume` one by one would, and emit the same EV_KEY and EV_OVERFLOW events in the same order. -/
def Obligations.SerialReceptionRefinesByteDecoding : Prop :=
  ∀ (s : State) (bs : List Byte) (rest : List Stimulus),
    s.samp.sampState = .wsl → s.cfg.raw.gap ≤ 1 → s.inputs = polls (Stmt.bytes bs).inputs ++ rest →
    ∃ t, run (22 * bs.length) s = .next t ∧ t.inputs = rest ∧ t.samp.sampState = .wsl
      ∧ t.dec = (consumeAll bs s).dec
      ∧ (trace (22 * bs.length) s).flatten.filter Event.ofDecoder
        = (consumeAll bs { s with events := [] }).events

/-- R235: after a valid frame with `P_GAP` = 0, a poll that still sees the stop slot's clock LOW is taken as a new start
slot, with the data level as its start bit. -/
def Obligations.StopSlotIsRecapturedWithoutAGap : Prop :=
  ∀ (s : State) (i j : Input) (rest : List Stimulus),
    s.samp.sampState = .wtl → s.samp.frmStart = false → s.cfg.raw.gap = 0 →
    s.inputs = .poll i :: .poll j :: rest → Plain i → Plain j →
    i.clk = false → i.data = true → j.clk = false →
    ∃ t, run 2 s = .next t ∧ t.samp.sampState = .wsh ∧ t.samp.frmStart = j.data ∧ t.samp.frmData = 0x00#8
end

