-- ==== Sys2Proof/Laws/Decode.lean ====
section
/-! SUPPORT. What the fields of the coded words are, and that a word made from a state and a sample decodes to the
row of that state and sample. -/

namespace Sys2Proof

@[simp] theorem SampState.ofCode_code (st : SampState) : SampState.ofCode st.code = some st := by
  cases st <;> rfl

@[simp] theorem transitionWord_code (st : SampState) (l : Line) :
    (transitionWord st l).extractLsb' 2 4 = st.code := by
  cases l with
  | mk c d => cases st <;> cases c <;> cases d <;> decide

@[simp] theorem transitionWord_clk (st : SampState) (l : Line) : (transitionWord st l)[1] = l.clk := by
  cases l with
  | mk c d => cases st <;> cases c <;> cases d <;> decide

@[simp] theorem transitionWord_data (st : SampState) (l : Line) : (transitionWord st l)[0] = l.data := by
  cases l with
  | mk c d => cases st <;> cases c <;> cases d <;> decide

/-- The word of a state and a sample decodes to their row (R76). -/
theorem decode_transitionWord (st : SampState) (l : Line) :
    decode (.transition (transitionWord st l)) = .ok (transitionInstr st l) := by
  simp [decode, decodeTransition]

@[simp] theorem Input.ofWord_word (i : Input) : Input.ofWord i.word = i := by
  rcases i with ⟨r, k, c, d⟩
  cases r <;> cases k <;> cases c <;> cases d <;> decide

@[simp] theorem frameWordOf_start (a : Bit) (v : Byte) (p t : Bit) : (frameWordOf a v p t)[0] = a := by
  rw [← BitVec.getLsbD_eq_getElem]
  simp only [frameWordOf, BitVec.getLsbD_append]
  simp

@[simp] theorem frameWordOf_parity (a : Bit) (v : Byte) (p t : Bit) : (frameWordOf a v p t)[9] = p := by
  rw [← BitVec.getLsbD_eq_getElem]
  simp only [frameWordOf, BitVec.getLsbD_append]
  simp

@[simp] theorem frameWordOf_stop (a : Bit) (v : Byte) (p t : Bit) : (frameWordOf a v p t)[10] = t := by
  rw [← BitVec.getLsbD_eq_getElem]
  simp only [frameWordOf, BitVec.getLsbD_append]
  simp

@[simp] theorem frameByte_frameWordOf (a : Bit) (v : Byte) (p t : Bit) : frameByte (frameWordOf a v p t) = v := by
  ext i hi
  simp only [frameByte, frameWordOf, BitVec.getElem_extractLsb', BitVec.getLsbD_append]
  have h1 : ¬ (1 + i < 1) := by omega
  simp [h1, hi]

/-- The class of a frame word put together from its fields (R73). -/
theorem classifyFrame_frameWordOf (a : Bit) (v : Byte) (p t : Bit) :
    classifyFrame (frameWordOf a v p t) =
      if a then .badStart t p v else if t then .valid p v else .badStop p v := by
  simp [classifyFrame]

end Sys2Proof
end

