-- ==== Sys2Proof/Laws/Scan.lean ====
section
/-! SUPPORT. What `append` and `consume` can do, said once. The decoder is a pure function
`(DecoderState, byte) → (DecoderState, Option<KeyEvent>)` (spec/00_scope.md R14, spec/43_scan_code_fsm.md R150):
`scanNext` and `scanEvents` are its two halves. -/

namespace Sys2Proof.Machine

/-- The decoder state after a prefix byte joins the buffer, or after the overflow (R155, R156). -/
def appendNext (d : Decoder) (b : Byte) : Decoder :=
  if h : d.plen.val < 8 then { d with pend := d.pend.set d.plen.val b, plen := ⟨d.plen.val + 1, by omega⟩ }
  else d.cleared

/-- The decoder state after a byte. -/
def scanNext (d : Decoder) (b : Byte) : Decoder :=
  match classifyByte b with
  | .ext => appendNext { d with ext := true } b
  | .pause => { d with pend := d.pend.set 0 b, plen := 1, pause := true }
  | .brk => appendNext { d with brk := true } b
  | .terminal _ => d.cleared

/-- The event a byte gives, if it gives one. -/
def scanEvents (c : Cfg) (d : Decoder) (b : Byte) : List Event :=
  match classifyByte b with
  | .ext | .brk => if d.plen.val < 8 then [] else [.overflow (d.pend.toList ++ [b])]
  | .pause => []
  | .terminal e =>
    [.key { keyId := c.lookup e d.ext, code := e, direction := directionOf d.brk, extended := d.ext,
            raw := d.rawBytes e }]

/-- The byte of each class. -/
theorem classifyByte_ext {b : Byte} (h : classifyByte b = .ext) : b = 0xE0#8 := by
  unfold classifyByte at h
  split at h
  · assumption
  · split at h <;> [cases h; split at h <;> cases h]

theorem classifyByte_pause {b : Byte} (h : classifyByte b = .pause) : b = 0xE1#8 := by
  unfold classifyByte at h
  split at h
  · cases h
  · split at h <;> [assumption; split at h <;> cases h]

theorem classifyByte_brk {b : Byte} (h : classifyByte b = .brk) : b = 0xF0#8 := by
  unfold classifyByte at h
  split at h
  · cases h
  · split at h <;> [cases h; (split at h <;> [assumption; cases h])]

theorem classifyByte_terminal {b c : Byte} (h : classifyByte b = .terminal c) :
    c = b ∧ b ≠ 0xE0#8 ∧ b ≠ 0xE1#8 ∧ b ≠ 0xF0#8 := by
  unfold classifyByte at h
  split at h
  · cases h
  · split at h
    · cases h
    · split at h
      · cases h
      · cases h; exact ⟨rfl, ‹_›, ‹_›, ‹_›⟩

/-- `append(b)`, said once. -/
theorem State.append_eq (s : State) (b : Byte) :
    s.append b =
      { s with
        dec := appendNext s.dec b
        events := s.events ++ if s.dec.plen.val < 8 then [] else [.overflow (s.dec.pend.toList ++ [b])] } := by
  unfold State.append appendNext
  split
  · simp [State.withDec, *]
  · simp [State.decReset, State.withDec, State.emit, *]

/-- `consume(b)`, said once: the decoder moves by `scanNext`, the events of `scanEvents` are appended, and every other
field keeps its value. -/
theorem consume_eq (b : Byte) (s : State) :
    consume b s =
      { s with dec := scanNext s.dec b, events := s.events ++ scanEvents s.cfg.raw s.dec b } := by
  cases h : classifyByte b with
  | ext =>
    simp only [consume, scanNext, scanEvents, h]
    rw [classifyByte_ext h]
    simp [prefixExt, State.append_eq, State.withDec]
  | pause =>
    simp only [consume, scanNext, scanEvents, h]
    rw [classifyByte_pause h]
    simp [prefixPause, State.withDec]
  | brk =>
    simp only [consume, scanNext, scanEvents, h]
    rw [classifyByte_brk h]
    simp [prefixBreak, State.append_eq, State.withDec]
  | terminal c =>
    simp only [consume, scanNext, scanEvents, h]
    simp [terminalByte, keyReport, State.decReset, State.withDec, State.emit]

section Consume
variable (b : Byte) (s : State)
@[simp] theorem consume_cfg : (consume b s).cfg = s.cfg := by rw [consume_eq]
@[simp] theorem consume_samp : (consume b s).samp = s.samp := by rw [consume_eq]
@[simp] theorem consume_dec : (consume b s).dec = scanNext s.dec b := by rw [consume_eq]
@[simp] theorem consume_events :
    (consume b s).events = s.events ++ scanEvents s.cfg.raw s.dec b := by rw [consume_eq]
@[simp] theorem consume_quiet : (consume b s).quiet = s.quiet := by rw [consume_eq]
@[simp] theorem consume_sync : (consume b s).sync = s.sync := by rw [consume_eq]
@[simp] theorem consume_inputs : (consume b s).inputs = s.inputs := by rw [consume_eq]
@[simp] theorem consume_freeIdx : (consume b s).freeIdx = s.freeIdx := by rw [consume_eq]
end Consume

/-- The pending sequence has `dec_plen` bytes. -/
@[simp] theorem Decoder.pending_length (d : Decoder) : d.pending.length = d.plen.val := by
  simp [Decoder.pending]; omega

/-- After a byte that joins the buffer, the pending sequence has that byte at its end (R155). -/
theorem pending_appendNext {d : Decoder} {b : Byte} (h : d.plen.val < 8) :
    (appendNext d b).pending = d.pending ++ [b] := by
  simp only [appendNext, h, dite_true, Decoder.pending, Vector.toList_set]
  rw [List.take_add_one, List.take_set, List.set_eq_of_length_le]
  · simp [h]
  · simp

end Sys2Proof.Machine
end

