-- ==== Sys2Proof/Laws/Step.lean ====
section
/-! SUPPORT. What a step can do, said once: the word of a step always decodes, and the row it decodes to runs. -/

namespace Sys2Proof.Machine

/-- The row of a step: RESET, CANCEL, or the transition of the state and the sample (R100, R210). -/
def instrOf (i : Input) (s : State) : Instr :=
  match controlInstr i with
  | some c => c
  | none => transitionInstr s.samp.sampState { clk := i.clk, data := i.data }

theorem instrOf_reset {i : Input} (h : i.rst = true) (s : State) : instrOf i s = .reset i.cancel i.clk i.data := by
  simp [instrOf, controlInstr, h]

theorem instrOf_cancel {i : Input} (h : i.rst = false) (hk : i.cancel = true) (s : State) :
    instrOf i s = .cancel i.clk i.data := by
  simp [instrOf, controlInstr, h, hk]

theorem instrOf_plain {i : Input} (h : i.rst = false) (hk : i.cancel = false) (s : State) :
    instrOf i s = transitionInstr s.samp.sampState { clk := i.clk, data := i.data } := by
  simp [instrOf, controlInstr, h, hk]

/-- The word of a step decodes to its row in every state. -/
theorem decode_fetchCode (i : Input) (s : State) : decode (fetchCode i s) = .ok (instrOf i s) := by
  unfold fetchCode instrOf
  rcases i with ⟨r, k, c, d⟩
  cases r <;> cases k
  · simp only [Bool.or_self, Bool.false_eq_true, if_false, decode_transitionWord]
    rfl
  all_goals simp [controlInstr, decode, decodeControl]

/-- Taking the next stimulus, said once: it is a cycle without a step, or a step with some input; the stimulus is used
up, only the synchronizers may move, and they keep their number. -/
theorem takeStimulus_cases (s : State) :
    takeStimulus s = .hold { s with inputs := s.inputs.tail }
      ∨ ∃ i sync, sync.length = s.sync.length
        ∧ takeStimulus s = .tick i { s with inputs := s.inputs.tail, sync := sync } := by
  rcases s with ⟨cfg, samp, dec, events, quiet, sync, inputs, freeIdx⟩
  cases inputs with
  | nil => exact .inr ⟨_, sync, rfl, rfl⟩
  | cons x rest =>
    cases x with
    | poll i => exact .inr ⟨i, sync, rfl, rfl⟩
    | cycle p =>
      rcases p with ⟨tick, rst, k, c, d⟩
      cases rst
      · cases tick
        · exact .inl rfl
        · exact .inr ⟨_, syncShift sync ⟨c, d⟩, by simp [syncShift], rfl⟩
      · exact .inr ⟨_, sync, rfl, rfl⟩

/-- `step`, said once. -/
theorem step_eq (s : State) :
    step s = match takeStimulus s with
      | .hold t => .next t
      | .tick i t => exec (instrOf i t) (beginTick t) := by
  unfold step
  split <;> simp [decode_fetchCode, *]

/-- A step on a told poll. -/
theorem step_poll {s : State} {i : Input} {rest : List Stimulus} (h : s.inputs = .poll i :: rest) :
    step s = exec (instrOf i s) (beginTick { s with inputs := rest }) := by
  simp [step_eq, takeStimulus, h, instrOf]

/-- Completing a frame, said once: the class of the frame word decides. -/
theorem completeFrame_eq (f : FrameWord) (s : State) :
    completeFrame f s = .next (if frameIsValid f then frameAccepted f s else frameRejected f s) := by
  have hf : frameWordOf (f.getLsbD 0) (frameByte f) (f.getLsbD 9) (f.getLsbD 10) = f := by
    apply BitVec.eq_of_getLsbD_eq
    intro i hi
    have h : i = 0 ∨ (1 ≤ i ∧ i < 9) ∨ i = 9 ∨ i = 10 := by omega
    rcases h with rfl | ⟨h1, h2⟩ | rfl | rfl
    · simp
    · simp only [frameWordOf, BitVec.getLsbD_append, frameByte, BitVec.getLsbD_extractLsb']
      have e1 : ¬ i < 1 := by omega
      have e2 : i - 1 < 8 := by omega
      have e3 : 1 + (i - 1) = i := by omega
      simp [e1, e2, e3]
    · simp
    · simp
  unfold completeFrame classifyFrame frameIsValid
  cases h0 : f.getLsbD 0 <;> cases h10 : f.getLsbD 10 <;>
    simp only [Bool.false_eq_true, if_true, if_false, Bool.not_true, Bool.not_false, Bool.and_true, Bool.and_false,
      execFrameValid, execFrameBadStart, execFrameBadStop] <;>
    rw [h0, h10] at hf <;> rw [hf]

end Sys2Proof.Machine
end

