-- ==== Sys2Proof/Laws/Exec.lean ====
section
/-! SUPPORT. The meanings as functions of the state, so that a proof need not take an outcome apart, and what no
meaning touches. -/

namespace Sys2Proof.Machine

/-- The state a meaning answers. -/
def effect (i : Instr) (s : State) : State :=
  match i with
  | .wslClkLow d => s.withSamp { s.samp with frmStart := d, frmData := 0x00#8, startCnt := 0, sampState := .wsh }
  | .wslClkHigh _ =>
    if s.samp.startCnt = s.cfg.raw.startTimeout - 1
    then (s.emit .startTimeout).withSamp { s.samp with startCnt := 0 }
    else s.withSamp { s.samp with startCnt := s.samp.startCnt + 1 }
  | .wshClkHigh _ => s.withSamp { s.samp with bitIdx := 0, sampState := .wbl }
  | .wblClkLow d =>
    s.withSamp { s.samp with frmData := writeBit s.samp.frmData s.samp.bitIdx d, sampState := .wbh }
  | .wbhClkHigh _ =>
    if s.samp.bitIdx ≠ 7
    then s.withSamp { s.samp with bitIdx := nextBit s.samp.bitIdx, sampState := .wbl }
    else s.goto .wpl
  | .wplClkLow d => s.withSamp { s.samp with frmParity := d, sampState := .wph }
  | .wphClkHigh _ => s.goto .wtl
  | .wtlClkLow d =>
    if frameIsValid (s.samp.frameWord d) then frameAccepted (s.samp.frameWord d) s
    else frameRejected (s.samp.frameWord d) s
  | .gapAny _ _ =>
    if s.samp.gapCnt = s.cfg.raw.gap - 1 then s.enterStartWait
    else s.withSamp { s.samp with gapCnt := s.samp.gapCnt + 1 }
  | .rsyIdle => (s.emit (.resync true)).enterStartWait
  | .rsyClkLow _ | .rsyClkHighDataLow => resyncPoll s
  | .wshClkLow _ | .wblClkHigh _ | .wbhClkLow _ | .wplClkHigh _ | .wphClkLow _ | .wtlClkHigh _ | .hltAny _ _ => s
  | .frameValid p v => frameAccepted (frameWordOf false v p true) s
  | .frameBadStart t p v => frameRejected (frameWordOf true v p t) s
  | .frameBadStop p v => frameRejected (frameWordOf false v p false) s
  | .pfxExt => prefixExt s
  | .pfxPause => prefixPause s
  | .pfxBreak => prefixBreak s
  | .terminal b => terminalByte b s
  | .reset _ _ _ => s.resetBlock
  | .cancel _ _ => s.goto .hlt

/-- Every meaning answers a next state, and it is `effect`. -/
theorem exec_eq (i : Instr) (s : State) : exec i s = .next (effect i s) := by
  cases i with
  | wtlClkLow d => exact completeFrame_eq _ s
  | _ => rfl

/-- After a valid frame, said once (R107). -/
theorem State.afterValidFrame_eq (s : State) :
    s.afterValidFrame = { s with samp :=
      if s.cfg.raw.gap = 0 then { s.samp with sampState := .wsl, startCnt := 0 }
      else { s.samp with sampState := .gap, gapCnt := 0 } } := by
  unfold State.afterValidFrame
  split <;> rfl

/-- A valid frame, said once: EV_FRAME, then the decoder's events; the decoder moves by the byte (R107, R135). -/
theorem frameAccepted_eq (f : FrameWord) (s : State) :
    frameAccepted f s =
      { s with
        dec := scanNext s.dec (frameByte f)
        events := s.events ++ .frame (validate f) :: scanEvents s.cfg.raw s.dec (frameByte f)
        samp :=
          if s.cfg.raw.gap = 0 then { s.samp with sampState := .wsl, startCnt := 0 }
          else { s.samp with sampState := .gap, gapCnt := 0 } } := by
  simp only [frameAccepted, State.afterValidFrame_eq, consume_eq, State.emit, List.append_assoc, List.cons_append,
    List.nil_append]

/-- An invalid frame, said once (R107, R135). -/
theorem frameRejected_eq (f : FrameWord) (s : State) :
    frameRejected f s =
      { s with
        samp := { s.samp with sampState := .rsy, resyncCnt := 0 }
        events := s.events ++ [.frame (validate f)] } := rfl

/-- A poll in RSY that is not idle, said once (R140). -/
theorem resyncPoll_eq (s : State) :
    resyncPoll s =
      if s.samp.resyncCnt = s.cfg.raw.resyncTimeout - 1 then
        { s with samp := { s.samp with sampState := .wsl, startCnt := 0 }, events := s.events ++ [.resync false] }
      else { s with samp := { s.samp with resyncCnt := s.samp.resyncCnt + 1 } } := by
  unfold resyncPoll
  split <;> rfl

/-- No meaning writes the configuration or the stimuli. -/
theorem effect_keeps (i : Instr) (s : State) :
    (effect i s).cfg = s.cfg ∧ (effect i s).inputs = s.inputs ∧ (effect i s).freeIdx = s.freeIdx := by
  cases i <;>
    simp only [effect, frameAccepted_eq, frameRejected_eq, resyncPoll_eq, prefixExt, prefixPause, prefixBreak,
      terminalByte, State.append_eq, State.decReset, State.withDec, State.withSamp, State.emit, State.goto,
      State.enterStartWait, State.resetBlock] <;>
    (try split) <;> first | exact ⟨rfl, rfl, rfl⟩ | simp

/-- A step is a cycle without a step, or the effect of its row. -/
theorem step_cases (s : State) :
    step s = .next { s with inputs := s.inputs.tail }
      ∨ ∃ i sync, sync.length = s.sync.length
        ∧ takeStimulus s = .tick i { s with inputs := s.inputs.tail, sync := sync }
        ∧ step s = .next (effect (instrOf i s)
            (beginTick { s with inputs := s.inputs.tail, sync := sync })) := by
  rcases takeStimulus_cases s with h | ⟨i, sync, hl, h⟩
  · exact .inl (by simp [step_eq, h])
  · refine .inr ⟨i, sync, hl, h, ?_⟩
    rw [step_eq, h]
    exact exec_eq _ _

/-- A step on a told poll is the effect of its row. -/
theorem step_poll_effect {s : State} {i : Input} {rest : List Stimulus} (h : s.inputs = .poll i :: rest) :
    step s = .next (effect (instrOf i s) (beginTick { s with inputs := rest })) := by
  rw [step_poll h, exec_eq]

/-! ### A step without control inputs, as functions of the sample -/

/-- The sampler after a step without reset and cancel (R101 to R109, R140). -/
def sampNext (c : Cfg) (x : Sampler) (l : Line) : Sampler :=
  match x.sampState with
  | .wsl =>
    if l.clk then
      if x.startCnt = c.startTimeout - 1 then { x with startCnt := 0 } else { x with startCnt := x.startCnt + 1 }
    else { x with frmStart := l.data, frmData := 0x00#8, startCnt := 0, sampState := .wsh }
  | .wsh => if l.clk then { x with bitIdx := 0, sampState := .wbl } else x
  | .wbl =>
    if l.clk then x else { x with frmData := writeBit x.frmData x.bitIdx l.data, sampState := .wbh }
  | .wbh =>
    if l.clk then
      if x.bitIdx = 7 then { x with sampState := .wpl } else { x with bitIdx := nextBit x.bitIdx, sampState := .wbl }
    else x
  | .wpl => if l.clk then x else { x with frmParity := l.data, sampState := .wph }
  | .wph => if l.clk then { x with sampState := .wtl } else x
  | .wtl =>
    if l.clk then x
    else if frameIsValid (x.frameWord l.data) then
      if c.gap = 0 then { x with sampState := .wsl, startCnt := 0 } else { x with sampState := .gap, gapCnt := 0 }
    else { x with sampState := .rsy, resyncCnt := 0 }
  | .gap =>
    if x.gapCnt = c.gap - 1 then { x with sampState := .wsl, startCnt := 0 } else { x with gapCnt := x.gapCnt + 1 }
  | .rsy =>
    if l.clk && l.data then { x with sampState := .wsl, startCnt := 0 }
    else if x.resyncCnt = c.resyncTimeout - 1 then { x with sampState := .wsl, startCnt := 0 }
    else { x with resyncCnt := x.resyncCnt + 1 }
  | .hlt => x

/-- The step completes a valid frame (R107). -/
def acceptsFrame (x : Sampler) (l : Line) : Bool :=
  decide (x.sampState = .wtl) && !l.clk && frameIsValid (x.frameWord l.data)

/-- The decoder after a step without reset and cancel: only a valid frame moves it (R42, R107). -/
def decNext (x : Sampler) (d : Decoder) (l : Line) : Decoder :=
  if acceptsFrame x l then scanNext d (frameByte (x.frameWord l.data)) else d

/-- The events of a step without reset and cancel (R209). -/
def plainEvents (c : Cfg) (x : Sampler) (d : Decoder) (l : Line) : List Event :=
  match x.sampState with
  | .wsl => if l.clk && decide (x.startCnt = c.startTimeout - 1) then [.startTimeout] else []
  | .wtl =>
    if l.clk then []
    else .frame (validate (x.frameWord l.data)) ::
      if frameIsValid (x.frameWord l.data) then scanEvents c d (frameByte (x.frameWord l.data)) else []
  | .rsy =>
    if l.clk && l.data then [.resync true]
    else if x.resyncCnt = c.resyncTimeout - 1 then [.resync false] else []
  | .wsh | .wbl | .wbh | .wpl | .wph | .gap | .hlt => []

/-- THE EFFECT OF A TRANSITION, said once: the sampler, the decoder and the events move by the three functions above,
and no other field is written. -/
theorem effect_transition (s : State) (l : Line) :
    effect (transitionInstr s.samp.sampState l) s =
      { s with
        samp := sampNext s.cfg.raw s.samp l
        dec := decNext s.samp s.dec l
        events := s.events ++ plainEvents s.cfg.raw s.samp s.dec l } := by
  rcases s with ⟨cfg, ⟨st, bi, sc, rc, gc, fs, fd, fp⟩, dec, ev, q, sy, ip, fi⟩
  rcases l with ⟨c, d⟩
  cases st <;> cases c <;> cases d <;>
    simp only [transitionInstr, effect, sampNext, decNext, acceptsFrame, plainEvents, frameAccepted_eq,
      frameRejected_eq, resyncPoll_eq, State.goto, State.withSamp, State.emit, State.enterStartWait, Bool.false_and,
      Bool.and_false, Bool.and_true, Bool.true_and, Bool.false_eq_true, if_false, if_true, reduceCtorEq, decide_false,
      decide_true, Bool.not_true, Bool.not_false, List.append_nil, ne_eq, decide_eq_true_eq, ite_not] <;>
    (try split) <;> simp

/-- What `resync_cnt` holds outside RSY is never read: it changes no event and no other field of the next state, and a
step that enters RSY clears it. So log entry 19 settles nothing that a run can show. -/
theorem resyncCnt_unread_outside_rsy (c : Cfg) (x : Sampler) (d : Decoder) (l : Line) (n : Nat)
    (hx : x.sampState ≠ .rsy) :
    plainEvents c { x with resyncCnt := n } d l = plainEvents c x d l
      ∧ decNext { x with resyncCnt := n } d l = decNext x d l
      ∧ (∃ m, sampNext c { x with resyncCnt := n } l = { sampNext c x l with resyncCnt := m })
      ∧ ((sampNext c x l).sampState = .rsy → (sampNext c x l).resyncCnt = 0) := by
  rcases x with ⟨st, bi, sc, rc, gc, fs, fd, fp⟩
  refine ⟨?_, rfl, ?_, ?_⟩
  · cases st <;> first | rfl | exact absurd rfl hx
  · cases st <;> simp only [sampNext, Sampler.frameWord] <;> (repeat' split) <;>
      first | exact ⟨_, rfl⟩ | exact absurd rfl hx
  · cases st <;> simp only [sampNext] <;> (repeat' split) <;> simp_all

/-- The same for `gap_cnt` outside GAP. -/
theorem gapCnt_unread_outside_gap (c : Cfg) (x : Sampler) (d : Decoder) (l : Line) (n : Nat)
    (hx : x.sampState ≠ .gap) :
    plainEvents c { x with gapCnt := n } d l = plainEvents c x d l
      ∧ decNext { x with gapCnt := n } d l = decNext x d l
      ∧ (∃ m, sampNext c { x with gapCnt := n } l = { sampNext c x l with gapCnt := m })
      ∧ ((sampNext c x l).sampState = .gap → (sampNext c x l).gapCnt = 0) := by
  rcases x with ⟨st, bi, sc, rc, gc, fs, fd, fp⟩
  refine ⟨?_, rfl, ?_, ?_⟩
  · cases st <;> rfl
  · cases st <;> simp only [sampNext, Sampler.frameWord] <;> (repeat' split) <;>
      first | exact ⟨_, rfl⟩ | exact absurd rfl hx
  · cases st <;> simp only [sampNext] <;> (repeat' split) <;> simp_all

/-- The effect of a step's row, by its inputs: reset, cancel, or a transition (R100, R210). -/
theorem effect_instrOf (i : Input) (s : State) :
    effect (instrOf i s) s =
      if i.rst then s.resetBlock
      else if i.cancel then s.goto .hlt
      else
        { s with
          samp := sampNext s.cfg.raw s.samp { clk := i.clk, data := i.data }
          dec := decNext s.samp s.dec { clk := i.clk, data := i.data }
          events := s.events ++ plainEvents s.cfg.raw s.samp s.dec { clk := i.clk, data := i.data } } := by
  cases hr : i.rst
  · cases hk : i.cancel
    · rw [instrOf_plain hr hk, effect_transition]; simp
    · rw [instrOf_cancel hr hk]; simp [effect]
  · rw [instrOf_reset hr]; simp [effect]

/-- A step on a told poll without reset and cancel. -/
theorem step_plain {s : State} {i : Input} {rest : List Stimulus} (h : s.inputs = .poll i :: rest)
    (hr : i.rst = false) (hk : i.cancel = false) :
    step s = .next
      { s with
        samp := sampNext s.cfg.raw s.samp { clk := i.clk, data := i.data }
        dec := decNext s.samp s.dec { clk := i.clk, data := i.data }
        events := plainEvents s.cfg.raw s.samp s.dec { clk := i.clk, data := i.data }
        quiet := Config.freePayload s.freeIdx
        inputs := rest
        freeIdx := s.freeIdx + 1 } := by
  have e : instrOf i s = instrOf i (beginTick { s with inputs := rest }) := rfl
  rw [step_poll_effect h, e, effect_instrOf]
  simp [hr, hk, beginTick]

/-- Every step, said once: a cycle without a step; or a step with some input, whose row is RESET, CANCEL or a
transition. -/
theorem step_inv {s t : State} (h : step s = .next t) :
    (s.inputs ≠ [] ∧ takeStimulus s = .hold t ∧ t = { s with inputs := s.inputs.tail })
      ∨ ∃ i sync, sync.length = s.sync.length
        ∧ takeStimulus s = .tick i { s with inputs := s.inputs.tail, sync := sync }
        ∧ t =
          if i.rst then
            { s with
              samp := Sampler.reset, dec := Decoder.reset, events := [], quiet := Payload.zero
              sync := syncPreset s.cfg, inputs := s.inputs.tail, freeIdx := s.freeIdx + 1 }
          else if i.cancel then
            { s with
              samp := { s.samp with sampState := .hlt }, events := [], quiet := Config.freePayload s.freeIdx
              sync := sync, inputs := s.inputs.tail, freeIdx := s.freeIdx + 1 }
          else
            { s with
              samp := sampNext s.cfg.raw s.samp { clk := i.clk, data := i.data }
              dec := decNext s.samp s.dec { clk := i.clk, data := i.data }
              events := plainEvents s.cfg.raw s.samp s.dec { clk := i.clk, data := i.data }
              quiet := Config.freePayload s.freeIdx
              sync := sync, inputs := s.inputs.tail, freeIdx := s.freeIdx + 1 } := by
  rcases takeStimulus_cases s with h' | ⟨i, sync, hl, h'⟩
  · rw [step_eq, h'] at h
    cases h
    refine .inl ⟨?_, h', rfl⟩
    intro h0
    simp [takeStimulus, h0] at h'
  · rw [step_eq, h'] at h
    simp only [exec_eq, Host.Outcome.next.injEq] at h
    refine .inr ⟨i, sync, hl, h', ?_⟩
    have e : instrOf i { s with inputs := s.inputs.tail, sync := sync }
        = instrOf i (beginTick { s with inputs := s.inputs.tail, sync := sync }) := rfl
    rw [← h, e, effect_instrOf]
    split
    · rfl
    · split <;> simp [beginTick, State.goto, State.withSamp]

end Sys2Proof.Machine
end

