-- ==== Sys2Proof/Laws/Operands.lean ====
section
/-! SUPPORT. What the operand functions and the Frame Validator compute, said once. -/

namespace Sys2Proof.Machine

/-- Writing a bit of a byte changes that bit alone (R28, R103). -/
theorem writeBit_getLsbD (v : Byte) (i : Fin 8) (b : Bit) (j : Nat) :
    (writeBit v i b).getLsbD j = if j = i.val then b else v.getLsbD j := by
  have hi := i.isLt
  by_cases hj : j < 8
  · by_cases h : j = i.val
    · subst h
      cases b <;> simp [writeBit]
    · have e : ¬ j < i.val → j - i.val ≠ 0 := by omega
      rcases Nat.lt_or_gt_of_ne h with h1 | h1
      · cases b <;> simp [writeBit, h, hj, h1]
      · have e2 : ¬ j < i.val := by omega
        cases b <;> simp [writeBit, h, hj, e2] <;> intro _ <;> omega
  · have : j ≠ i.val := by omega
    rw [BitVec.getLsbD_of_ge _ _ (by omega), if_neg this, BitVec.getLsbD_of_ge _ _ (by omega)]

/-- Below 7 the next slot is one more (R104). -/
theorem nextBit_val {i : Fin 8} (h : i ≠ 7) : (nextBit i).val = i.val + 1 := by
  have h' : i.val ≠ 7 := fun e => h (Fin.ext e)
  rw [nextBit, Fin.val_add]
  simp
  omega

/-- A frame is valid when its start bit is 0 and its stop bit is 1 (R131). -/
theorem frameIsValid_frameWordOf (start : Bit) (v : Byte) (parity stop : Bit) :
    frameIsValid (frameWordOf start v parity stop) = (!start && stop) := by
  simp [frameIsValid]

/-- The validator on a frame word put together from its fields (R130 to R132). -/
theorem validate_frameWordOf (start : Bit) (v : Byte) (parity stop : Bit) :
    validate (frameWordOf start v parity stop) =
      { word := frameWordOf start v parity stop, value := v, valid := !start && stop
        parityOk := (popcount v + parity.toNat) % 2 == 1 } := by
  simp [validate, frameIsValid_frameWordOf, parityIsOdd]

end Sys2Proof.Machine
end

