-- ==== Sys2Proof/Laws/PerInstr.lean ====
section
/-! SUPPORT. Statements about every instruction as syntax, one lemma per constructor. -/

namespace Sys2Proof.Laws.EncodesToItsRow

open Sys2Proof

/-- The word a well-formed instruction encodes to matches its own row of spec/opcode_table.json, mask and value. -/
def Statement (i : Instr) : Prop := i.wf = true → i.row.matchesCode (encode i) = true

theorem wslClkLow (data : Bit) : Statement (.wslClkLow data) := by
  cases data <;> exact fun _ => rfl
theorem wslClkHigh (data : Bit) : Statement (.wslClkHigh data) := by
  cases data <;> exact fun _ => rfl
theorem wshClkHigh (data : Bit) : Statement (.wshClkHigh data) := by
  cases data <;> exact fun _ => rfl
theorem wshClkLow (data : Bit) : Statement (.wshClkLow data) := by
  cases data <;> exact fun _ => rfl
theorem wblClkLow (data : Bit) : Statement (.wblClkLow data) := by
  cases data <;> exact fun _ => rfl
theorem wblClkHigh (data : Bit) : Statement (.wblClkHigh data) := by
  cases data <;> exact fun _ => rfl
theorem wbhClkHigh (data : Bit) : Statement (.wbhClkHigh data) := by
  cases data <;> exact fun _ => rfl
theorem wbhClkLow (data : Bit) : Statement (.wbhClkLow data) := by
  cases data <;> exact fun _ => rfl
theorem wplClkLow (data : Bit) : Statement (.wplClkLow data) := by
  cases data <;> exact fun _ => rfl
theorem wplClkHigh (data : Bit) : Statement (.wplClkHigh data) := by
  cases data <;> exact fun _ => rfl
theorem wphClkHigh (data : Bit) : Statement (.wphClkHigh data) := by
  cases data <;> exact fun _ => rfl
theorem wphClkLow (data : Bit) : Statement (.wphClkLow data) := by
  cases data <;> exact fun _ => rfl
theorem wtlClkLow (data : Bit) : Statement (.wtlClkLow data) := by
  cases data <;> exact fun _ => rfl
theorem wtlClkHigh (data : Bit) : Statement (.wtlClkHigh data) := by
  cases data <;> exact fun _ => rfl
theorem gapAny (clk : Bit) (data : Bit) : Statement (.gapAny clk data) := by
  cases clk <;> cases data <;> exact fun _ => rfl
theorem rsyIdle : Statement .rsyIdle := fun _ => rfl
theorem rsyClkLow (data : Bit) : Statement (.rsyClkLow data) := by
  cases data <;> exact fun _ => rfl
theorem rsyClkHighDataLow : Statement .rsyClkHighDataLow := fun _ => rfl
theorem hltAny (clk : Bit) (data : Bit) : Statement (.hltAny clk data) := by
  cases clk <;> cases data <;> exact fun _ => rfl
theorem frameValid (parity : Bit) (value : Byte) : Statement (.frameValid parity value) := fun _ => by
  have h : ∀ n : Fin 256, Row.matchesCode (Instr.row (.frameValid parity (BitVec.ofFin n)))
      (encode (.frameValid parity (BitVec.ofFin n))) = true := by
    cases parity <;> decide +kernel
  exact h value.toFin
theorem frameBadStart (stop : Bit) (parity : Bit) (value : Byte) : Statement (.frameBadStart stop parity value) := fun _ => by
  have h : ∀ n : Fin 256, Row.matchesCode (Instr.row (.frameBadStart stop parity (BitVec.ofFin n)))
      (encode (.frameBadStart stop parity (BitVec.ofFin n))) = true := by
    cases stop <;> cases parity <;> decide +kernel
  exact h value.toFin
theorem frameBadStop (parity : Bit) (value : Byte) : Statement (.frameBadStop parity value) := fun _ => by
  have h : ∀ n : Fin 256, Row.matchesCode (Instr.row (.frameBadStop parity (BitVec.ofFin n)))
      (encode (.frameBadStop parity (BitVec.ofFin n))) = true := by
    cases parity <;> decide +kernel
  exact h value.toFin
theorem pfxExt : Statement .pfxExt := fun _ => rfl
theorem pfxPause : Statement .pfxPause := fun _ => rfl
theorem pfxBreak : Statement .pfxBreak := fun _ => rfl
theorem terminal (b : Byte) : Statement (.terminal b) := by
  intro _
  simp [Instr.row, encode, Row.matchesCode, Code.formatValue]
theorem reset (cancel : Bit) (clk : Bit) (data : Bit) : Statement (.reset cancel clk data) := by
  cases cancel <;> cases clk <;> cases data <;> exact fun _ => rfl
theorem cancel (clk : Bit) (data : Bit) : Statement (.cancel clk data) := by
  cases clk <;> cases data <;> exact fun _ => rfl

end Sys2Proof.Laws.EncodesToItsRow
end

