-- ==== Sys2Proof/Laws/Run.lean ====
section
/-! SUPPORT. Runs and observations, one step at a time. -/

namespace Sys2Proof.Machine

@[simp] theorem run_zero (s : State) : run 0 s = .next s := rfl

/-- A run whose first step goes on. -/
theorem run_succ {s t : State} (h : step s = .next t) (n : Nat) : run (n + 1) s = run n t := by
  have h' : Host.Core.step Sys2Proof.core s = .next t := h
  simp only [run, Host.Core.run, h']
  rfl

/-- A run in two parts. -/
theorem run_add {s t : State} {m : Nat} (h : run m s = .next t) (n : Nat) : run (m + n) s = run n t := by
  induction m generalizing s with
  | zero => cases h; simp
  | succ m ih =>
    cases hs : step s with
    | next u => rw [run_succ hs] at h; rw [Nat.succ_add, run_succ hs]; exact ih h
    | fault r => cases r
    | refused r =>
      have h' : Host.Core.step Sys2Proof.core s = .refused r := hs
      simp [run, Host.Core.run, h'] at h

@[simp] theorem trace_zero (s : State) : trace 0 s = [] := rfl

/-- The observation of a run whose first step goes on. -/
theorem trace_succ {s t : State} (h : step s = .next t) (n : Nat) :
    trace (n + 1) s = if s.holds then trace n t else t.events :: trace n t := by
  simp only [trace, h]

/-- A told poll is a step of the block. -/
theorem holds_poll {s : State} {i : Input} {rest : List Stimulus} (h : s.inputs = .poll i :: rest) :
    s.holds = false := by
  simp [State.holds, takeStimulus, h]

@[simp] theorem polls_nil : polls [] = [] := rfl
@[simp] theorem polls_cons (i : Input) (is : List Input) : polls (i :: is) = .poll i :: polls is := rfl
@[simp] theorem polls_append (is js : List Input) : polls (is ++ js) = polls is ++ polls js := by
  simp [polls]

end Sys2Proof.Machine
end

