-- ==== Sys2Proof/Laws/Tables.lean ====
section
/-! SUPPORT. The laws of the two ROMs: programming a word before the first step and reading it back, and that it
keeps the canonical form. -/

namespace Sys2Proof.Machine

/-- Every address of a list that rises above `lo` lies above `lo`. -/
theorem Rom.rising_lt {lo : Nat} {r : Rom} (h : Rom.rising (some lo) r = true) : ∀ c ∈ r, lo < c.1 := by
  induction r generalizing lo with
  | nil => simp
  | cons c r ih =>
    simp only [Rom.rising, Bool.and_eq_true, decide_eq_true_eq] at h
    intro d hd
    rcases List.mem_cons.mp hd with rfl | hd
    · exact h.1
    · exact Nat.lt_trans h.1 (ih h.2 d hd)

/-- A list that rises above a bound rises above a lower one. -/
theorem Rom.rising_mono {lo hi : Nat} {r : Rom} (hle : lo ≤ hi) (h : Rom.rising (some hi) r = true) :
    Rom.rising (some lo) r = true := by
  cases r with
  | nil => rfl
  | cons c r =>
    simp only [Rom.rising, Bool.and_eq_true, decide_eq_true_eq] at h ⊢
    exact ⟨by omega, h.2⟩

/-- A bound is all that `rising (some lo)` adds to `rising none`. -/
theorem Rom.rising_none {lo : Nat} {r : Rom} (h : Rom.rising (some lo) r = true) :
    Rom.rising none r = true := by
  cases r with
  | nil => rfl
  | cons c r => simp only [Rom.rising, Bool.and_eq_true] at h ⊢; exact h.2

/-- An address that no entry names reads as an unlisted one. -/
theorem Rom.get_of_not_mem {r : Rom} {a : Nat} (h : ∀ c ∈ r, c.1 ≠ a) : Rom.get r a = Rom.unlisted := by
  induction r with
  | nil => rfl
  | cons c r ih =>
    simp only [Rom.get, h c (by simp), if_false]
    exact ih fun d hd => h d (by simp [hd])

/-! ### Inserting -/

theorem Rom.insert_get (r : Rom) (a b : Nat) (w : Byte) :
    Rom.get (Rom.insert r a w) b = if a = b then w else Rom.get r b := by
  induction r with
  | nil => simp [Rom.insert, Rom.get]
  | cons c r ih =>
    simp only [Rom.insert]
    split
    · simp [Rom.get]
    · split
      · next h => subst h; by_cases hb : c.1 = b <;> simp [Rom.get, hb]
      · next h =>
        simp only [Rom.get, ih]
        by_cases hb : c.1 = b
        · have : a ≠ b := by omega
          simp [hb, this]
        · simp [hb]

theorem Rom.insert_rising {r : Rom} {a : Nat} {w : Byte} {lo : Nat} (hlo : lo < a)
    (h : Rom.rising (some lo) r = true) : Rom.rising (some lo) (Rom.insert r a w) = true := by
  induction r generalizing lo with
  | nil => simpa [Rom.insert, Rom.rising] using hlo
  | cons c r ih =>
    simp only [Rom.rising, Bool.and_eq_true, decide_eq_true_eq] at h
    simp only [Rom.insert]
    split
    · simp_all [Rom.rising]
    · split
      · next he => subst he; simpa [Rom.rising] using h
      · simp only [Rom.rising, Bool.and_eq_true, decide_eq_true_eq]
        exact ⟨h.1, ih (by omega) h.2⟩

theorem Rom.insert_mem {r : Rom} {a : Nat} {w : Byte} {c : Host.Cell} (h : c ∈ Rom.insert r a w) :
    c = (a, w) ∨ c ∈ r := by
  induction r with
  | nil => simpa [Rom.insert] using h
  | cons d r ih =>
    simp only [Rom.insert] at h
    split at h
    · simpa using h
    · split at h
      · rcases List.mem_cons.mp h with h | h
        · exact .inl h
        · exact .inr (by simp [h])
      · rcases List.mem_cons.mp h with h | h
        · exact .inr (by simp [h])
        · rcases ih h with h | h
          · exact .inl h
          · exact .inr (by simp [h])

/-! ### Clearing -/

theorem Rom.clear_mem {r : Rom} {a : Nat} {c : Host.Cell} (h : c ∈ Rom.clear r a) : c ∈ r := by
  induction r with
  | nil => simp [Rom.clear] at h
  | cons d r ih =>
    simp only [Rom.clear] at h
    split at h
    · simp [h]
    · rcases List.mem_cons.mp h with h | h
      · simp [h]
      · simp [ih h]

theorem Rom.clear_rising {r : Rom} {a lo : Nat} (h : Rom.rising (some lo) r = true) :
    Rom.rising (some lo) (Rom.clear r a) = true := by
  induction r generalizing lo with
  | nil => rfl
  | cons c r ih =>
    simp only [Rom.rising, Bool.and_eq_true, decide_eq_true_eq] at h
    simp only [Rom.clear]
    split
    · exact Rom.rising_mono (Nat.le_of_lt h.1) h.2
    · simp only [Rom.rising, Bool.and_eq_true, decide_eq_true_eq]
      exact ⟨h.1, ih h.2⟩

theorem Rom.clear_get {r : Rom} {a b : Nat} (h : Rom.rising none r = true) :
    Rom.get (Rom.clear r a) b = if a = b then Rom.unlisted else Rom.get r b := by
  induction r with
  | nil => simp [Rom.clear, Rom.get]
  | cons c r ih =>
    simp only [Rom.rising] at h
    simp only [Rom.clear]
    split
    · next hc =>
      subst hc
      by_cases hb : c.1 = b
      · subst hb
        simp only [if_true]
        exact Rom.get_of_not_mem fun d hd => by have := Rom.rising_lt h d hd; omega
      · simp [Rom.get, hb]
    · next hc =>
      simp only [Rom.get, ih (Rom.rising_none h)]
      by_cases hb : c.1 = b
      · have : a ≠ b := by omega
        simp [hb, this]
      · simp [hb]

/-! ### Programming -/

/-- Reading a programmed ROM gives the word at its address and the old word at every other (R52, R53). -/
theorem Rom.program_read {r : Rom} (h : Rom.wf r = true) (a w b : Byte) :
    Rom.read (Rom.program r a w) b = if b = a then w else Rom.read r b := by
  simp only [Rom.wf, Bool.and_eq_true] at h
  have hab : (a.toNat = b.toNat) ↔ b = a := by rw [← BitVec.toNat_inj]; exact eq_comm
  by_cases hw : w = Rom.unlisted
  · simp [Rom.program, hw, Rom.read, Rom.clear_get h.1, hab]
  · simp [Rom.program, hw, Rom.read, Rom.insert_get, hab]

/-- Programming a word keeps the canonical form. -/
theorem Rom.program_wf {r : Rom} (h : Rom.wf r = true) (a w : Byte) : Rom.wf (Rom.program r a w) = true := by
  simp only [Rom.wf, Bool.and_eq_true, List.all_eq_true] at h ⊢
  by_cases hw : w = Rom.unlisted
  · simp only [Rom.program, hw, if_true]
    refine ⟨?_, fun c hc => h.2 c (Rom.clear_mem hc)⟩
    cases r with
    | nil => rfl
    | cons c r =>
      have h1 := h.1
      simp only [Rom.rising] at h1
      simp only [Rom.clear]
      split
      · exact Rom.rising_none h1
      · exact Rom.clear_rising h1
  · simp only [Rom.program, hw, if_false]
    refine ⟨?_, fun c hc => ?_⟩
    · cases r with
      | nil => rfl
      | cons c r =>
        have h1 := h.1
        simp only [Rom.rising] at h1
        simp only [Rom.insert]
        split
        · next hlt => simp [Rom.rising, hlt, h1]
        · split
          · next he => rw [← he]; exact h1
          · exact Rom.insert_rising (by omega) h1
    · rcases Rom.insert_mem hc with rfl | hc
      · have := a.isLt
        simp [hw, this]
      · exact h.2 c hc

/-- Every value below the limit fits in the counter's width, so a register of that width never wraps (R26). -/
theorem lt_two_pow_counterWidth {n limit : Nat} (h : n ≤ limit - 1) : n < 2 ^ counterWidth limit := by
  unfold counterWidth
  split
  · omega
  · exact Nat.lt_of_le_of_lt h (Nat.lt_log2_self)

/-- A listed word is what its address reads as. -/
theorem Rom.get_of_mem {r : Rom} (h : Rom.rising none r = true) {e : Host.Cell} (he : e ∈ r) :
    Rom.get r e.1 = e.2 := by
  induction r with
  | nil => cases he
  | cons c r ih =>
    simp only [Rom.rising] at h
    rcases List.mem_cons.1 he with rfl | he
    · simp [Rom.get]
    · have := Rom.rising_lt h e he
      simp only [Rom.get]
      rw [if_neg (by omega)]
      exact ih (Rom.rising_none h) he

end Sys2Proof.Machine

namespace Sys2Proof

open Machine

/-- Both ROMs of an admitted configuration have the canonical form (R9, R50). -/
theorem Cfg.Valid.roms_wf (v : Cfg.Valid) : Rom.wf v.raw.baseRom = true ∧ Rom.wf v.raw.extRom = true := by
  have h := v.ok
  simp only [Cfg.wf, Bool.and_eq_true] at h
  tauto

/-- The budgets of an admitted configuration are at least 1 (R9). -/
theorem Cfg.Valid.budgets (v : Cfg.Valid) :
    1 ≤ v.raw.startTimeout ∧ 1 ≤ v.raw.resyncTimeout ∧ 1 ≤ v.raw.pollDiv := by
  have h := v.ok
  simp only [Cfg.wf, Bool.and_eq_true, decide_eq_true_eq] at h
  tauto

/-- In a ROM whose words are named, a word that can be read and is not 0x00 has a name (R80, R183). -/
theorem Cfg.get_named {c : Cfg} {r : Rom} (h : c.romNamed r = true) {n : Nat} (hp : Rom.neverRead n = false)
    (hn : Rom.get r n ≠ 0x00#8) : (c.nameOf (Rom.get r n)).isSome = true := by
  induction r with
  | nil => simp [Rom.get, Rom.unlisted] at hn
  | cons e r ih =>
    simp only [Cfg.romNamed, List.all_cons, Bool.and_eq_true, Bool.or_eq_true] at h
    simp only [Rom.get] at hn ⊢
    split
    · rename_i h1
      exact h.1.resolve_left (by simp [h1, hp])
    · rename_i h1
      simp only [h1, if_false] at hn
      exact ih h.2 hn

/-- The check of the names, said once: in a ROM in canonical form it holds exactly when every word that can be read and
is not 0x00 has a name (R80, R183; log entry 20). -/
theorem Cfg.romNamed_iff {c : Cfg} {r : Rom} (hr : Rom.wf r = true) :
    c.romNamed r = true ↔
      ∀ a : Byte, isPrefix a = false → Rom.read r a ≠ 0x00#8 → (c.nameOf (Rom.read r a)).isSome = true := by
  constructor
  · intro h a hp
    exact Cfg.get_named h (by simpa [Rom.neverRead] using hp)
  · intro h
    simp only [Rom.wf, Bool.and_eq_true, List.all_eq_true, decide_eq_true_eq, bne_iff_ne] at hr
    simp only [Cfg.romNamed, List.all_eq_true, Bool.or_eq_true]
    intro e he
    obtain ⟨hlt, hne⟩ := hr.2 e he
    cases hp : Rom.neverRead e.1 with
    | true => exact .inl rfl
    | false =>
      have hget := Rom.get_of_mem hr.1 he
      have hread : Rom.read r (BitVec.ofNat 8 e.1) = e.2 := by
        simp only [Rom.read, BitVec.toNat_ofNat]
        rwa [Nat.mod_eq_of_lt (by omega)]
      have := h (BitVec.ofNat 8 e.1) hp
      rw [hread] at this
      exact .inr (this hne)

/-- No name is given to an id at or below the bound its list starts from (R80; I14). -/
theorem KeyNames.get_of_le {lo : Byte} {l : KeyNames} (h : KeyNames.wf lo l = true) {id : Byte}
    (hid : id.toNat ≤ lo.toNat) : KeyNames.get l id = none := by
  induction l generalizing lo with
  | nil => rfl
  | cons e l ih =>
    simp only [KeyNames.wf, Bool.and_eq_true, decide_eq_true_eq] at h
    have hne : e.1 ≠ id := by
      intro he
      rw [he] at h
      omega
    simp only [KeyNames.get, hne, if_false]
    exact ih h.2 (by omega)

end Sys2Proof
end

