-- ==== Sys2Proof/Tests/Slice0.lean ====
section
/-! SUPPORT. Tests with the expected values of spec/95_test_vectors.md (each names its vector), smoke tests of
WellFormed, words written out from spec/30_encoding.md, and for every obligation with hypotheses a witness that meets
them. -/

namespace Sys2Proof.Tests

open Sys2Proof Sys2Proof.Machine

/-! ### WellFormed, Decode -/

theorem test_wf_refuses_terminal_e0 : Instr.wf (.terminal 0xE0#8) = false := by decide
theorem test_wf_refuses_terminal_e1 : Instr.wf (.terminal 0xE1#8) = false := by decide
theorem test_wf_refuses_terminal_f0 : Instr.wf (.terminal 0xF0#8) = false := by decide
theorem test_wf_accepts_terminal : Instr.wf (.terminal 0x00#8) = true ∧ Instr.wf (.terminal 0xFF#8) = true := by
  decide

/-! A transition word is {state code, clk, data} (R76); the codes are those of R74. -/

theorem test_decode_wsl : decode (.transition 0b000000#6) = .ok (.wslClkLow false)
    ∧ decode (.transition 0b000011#6) = .ok (.wslClkHigh true) := by decide
theorem test_decode_wsh : decode (.transition 0b000110#6) = .ok (.wshClkHigh false)
    ∧ decode (.transition 0b000101#6) = .ok (.wshClkLow true) := by decide
theorem test_decode_wbl : decode (.transition 0b001001#6) = .ok (.wblClkLow true)
    ∧ decode (.transition 0b001010#6) = .ok (.wblClkHigh false) := by decide
theorem test_decode_wbh : decode (.transition 0b001111#6) = .ok (.wbhClkHigh true)
    ∧ decode (.transition 0b001100#6) = .ok (.wbhClkLow false) := by decide
theorem test_decode_wpl : decode (.transition 0b010001#6) = .ok (.wplClkLow true)
    ∧ decode (.transition 0b010010#6) = .ok (.wplClkHigh false) := by decide
theorem test_decode_wph : decode (.transition 0b010110#6) = .ok (.wphClkHigh false)
    ∧ decode (.transition 0b010101#6) = .ok (.wphClkLow true) := by decide
theorem test_decode_wtl : decode (.transition 0b011001#6) = .ok (.wtlClkLow true)
    ∧ decode (.transition 0b011010#6) = .ok (.wtlClkHigh false) := by decide
theorem test_decode_gap_hlt : decode (.transition 0b011101#6) = .ok (.gapAny false true)
    ∧ decode (.transition 0b100110#6) = .ok (.hltAny true false) := by decide
theorem test_decode_rsy : decode (.transition 0b100011#6) = .ok .rsyIdle
    ∧ decode (.transition 0b100001#6) = .ok (.rsyClkLow true)
    ∧ decode (.transition 0b100010#6) = .ok .rsyClkHighDataLow := by decide
theorem test_decode_reserved : decode (.transition 0b101000#6) = .error .reservedStateCode
    ∧ decode (.transition 0b111111#6) = .error .reservedStateCode := by decide
/-- V-F10, V-F9, V-F8: 0x638 is {1, 1, 0x1C, 0}, 0x039 is {0, 0, 0x1C, 1}, 0x038 is {0, 0, 0x1C, 0} (R72). -/
theorem test_decode_frame : decode (.frame 0x638#11) = .ok (.frameValid true 0x1C#8)
    ∧ decode (.frame 0x039#11) = .ok (.frameBadStart false false 0x1C#8)
    ∧ decode (.frame 0x038#11) = .ok (.frameBadStop false 0x1C#8) := by decide
theorem test_decode_byte : decode (.scanByte 0xE0#8) = .ok .pfxExt ∧ decode (.scanByte 0xE1#8) = .ok .pfxPause
    ∧ decode (.scanByte 0xF0#8) = .ok .pfxBreak ∧ decode (.scanByte 0xAA#8) = .ok (.terminal 0xAA#8) := by decide
theorem test_decode_control : decode (.control 0b1110#4) = .ok (.reset true true false)
    ∧ decode (.control 0b0101#4) = .ok (.cancel false true)
    ∧ decode (.control 0b0011#4) = .error .noControlAsserted := by decide
/-- The host's numbering (log entry 8): a transition word, a scan byte, a frame word and a 4-bit control word. -/
theorem test_decodeTableWord : decodeTableWord 8 0b011000 = some (.wtlClkLow false)
    ∧ decodeTableWord 8 0xE0 = some .pfxExt ∧ decodeTableWord 16 0x400 = some (.frameValid false 0x00#8)
    ∧ decodeTableWord 4 0b1000 = some (.reset false false false) := by decide

/-! ### One step -/

/-- The block after reset under TCFG (R8). -/
def dev : State := State.resetWith Cfg.test

/-- TCFG with other budgets, as the vectors name them. -/
def devWith (start resync gap : Nat) : State :=
  { dev with cfg :=
      if h : ({ Cfg.tcfg with startTimeout := start, resyncTimeout := resync, gap := gap } : Cfg).wf = true
      then ⟨_, h⟩ else Cfg.test }

/-- TCFG with `P_GAP` = 2. -/
def gapDev : State := devWith 4 4 2

/-- The sampler in a state, with a bit index and a data byte. -/
def sampling (st : SampState) (idx : Fin 8) (data : Byte) (parity : Bit) : State :=
  dev.withSamp { Sampler.reset with sampState := st, bitIdx := idx, frmData := data, frmParity := parity }

/-- The decoder with a sequence pending. -/
def pendingDev (brk ext pause : Bit) (n : Fin 9) (pend : Vector Byte 8) : State :=
  dev.withDec { brk := brk, ext := ext, pause := pause, plen := n, pend := pend }

/-- Eight bytes, the rest 0x00. -/
def pend8 (b : Byte) : Vector Byte 8 := #v[b, b, b, b, b, b, b, b]

/-- What `f` reads after one step with an input; none where the step does not go on. -/
def see {α : Type} (s : State) (i : Input) (f : State → α) : Option α :=
  match step (s.offer i) with
  | .next t => some (f t)
  | .fault _ => none
  | .refused _ => none

/-- What `f` reads after the meaning of an instruction. -/
def does {α : Type} (i : Instr) (s : State) (f : State → α) : Option α :=
  match exec i s with
  | .next t => some (f t)
  | .fault _ => none
  | .refused _ => none

/-- V-S1 -/
theorem test_wsl_counts :
    see dev (sample true true) (fun t => (t.samp, t.events)) = some ({ Sampler.reset with startCnt := 1 }, []) := by
  decide
/-- V-S2 -/
theorem test_wsl_times_out :
    see (dev.withSamp { Sampler.reset with startCnt := 3 }) (sample true true) (fun t => (t.samp, t.events))
      = some (Sampler.reset, [.startTimeout]) := by decide
/-- V-S3 -/
theorem test_wsl_start_wins :
    see (dev.withSamp { Sampler.reset with startCnt := 3 }) (sample false true) (fun t => (t.samp, t.events))
      = some ({ Sampler.reset with sampState := .wsh, frmStart := true }, []) := by decide
/-- V-S4 -/
theorem test_wsl_clears_data :
    see (dev.withSamp { Sampler.reset with startCnt := 2, frmData := 0xFF#8 }) (sample false false)
      (fun t => (t.samp, t.events)) = some ({ Sampler.reset with sampState := .wsh }, []) := by decide
/-- V-S6, V-S7 -/
theorem test_wsh :
    see (sampling .wsh 7 0x00#8 false) (sample false true) (fun t => t.samp) = some (sampling .wsh 7 0x00#8 false).samp
      ∧ see (sampling .wsh 7 0x00#8 false) (sample true false) (fun t => (t.samp.sampState, t.samp.bitIdx))
        = some (.wbl, 0) := by decide
/-- V-S8 -/
theorem test_wbl_bit_2 :
    see (sampling .wbl 2 0x00#8 false) (sample false true) (fun t => (t.samp.sampState, t.samp.frmData))
      = some (.wbh, 0x04#8) := by decide
/-- V-S10, V-S9 -/
theorem test_wbl_bit_7 :
    see (sampling .wbl 7 0x05#8 false) (sample false true) (fun t => (t.samp.sampState, t.samp.frmData))
      = some (.wbh, 0x85#8)
      ∧ see (sampling .wbl 2 0x00#8 false) (sample true true) (fun t => t.samp) = some (sampling .wbl 2 0x00#8 false).samp := by
  decide
/-- V-S11, V-S13 -/
theorem test_wbh_next :
    see (sampling .wbh 3 0x00#8 false) (sample true false) (fun t => (t.samp.sampState, t.samp.bitIdx)) = some (.wbl, 4)
      ∧ see (sampling .wbh 3 0x00#8 false) (sample false true) (fun t => t.samp) = some (sampling .wbh 3 0x00#8 false).samp := by
  decide
/-- V-S12 -/
theorem test_wbh_last :
    see (sampling .wbh 7 0x00#8 false) (sample true true) (fun t => (t.samp.sampState, t.samp.bitIdx))
      = some (.wpl, 7) := by decide
/-- V-S14, V-S15 -/
theorem test_wpl :
    see (sampling .wpl 7 0x00#8 false) (sample false true) (fun t => (t.samp.sampState, t.samp.frmParity))
      = some (.wph, true)
      ∧ see (sampling .wpl 7 0x00#8 false) (sample true true) (fun t => t.samp) = some (sampling .wpl 7 0x00#8 false).samp := by
  decide
/-- V-S16, V-S17 -/
theorem test_wph :
    see (sampling .wph 7 0x00#8 true) (sample true false) (fun t => (t.samp.sampState, t.samp.frmParity))
      = some (.wtl, true)
      ∧ see (sampling .wph 7 0x00#8 true) (sample false false) (fun t => t.samp) = some (sampling .wph 7 0x00#8 true).samp := by
  decide
/-- V-S18 -/
theorem test_wtl_valid :
    see (sampling .wtl 7 0x1C#8 false) (sample false true) (fun t => (t.samp.sampState, t.samp.startCnt, t.events))
      = some (.wsl, 0, [.frame ⟨0x438#11, 0x1C#8, true, true⟩, .key ⟨0x14#8, 0x1C#8, .press, false, [0x1C#8]⟩]) := by
  decide
/-- V-S19, V-S21 -/
theorem test_wtl_bad_stop :
    see (sampling .wtl 7 0x1C#8 false) (sample false false) (fun t => (t.samp.sampState, t.samp.resyncCnt, t.events))
      = some (.rsy, 0, [.frame ⟨0x038#11, 0x1C#8, false, true⟩])
      ∧ see (sampling .wtl 7 0x1C#8 false) (sample true true) (fun t => (t.samp, t.events))
        = some ((sampling .wtl 7 0x1C#8 false).samp, []) := by decide
/-- V-S23 -/
theorem test_gap_counts :
    see (gapDev.goto .gap) (sample false false) (fun t => (t.samp.sampState, t.samp.gapCnt)) = some (.gap, 1) := by
  decide
/-- V-S24; `gap_cnt` is not among the fields it writes (log entry 19). -/
theorem test_gap_ends :
    see (gapDev.withSamp { Sampler.reset with sampState := .gap, gapCnt := 1, startCnt := 3 }) (sample true true)
      (fun t => (t.samp.sampState, t.samp.startCnt, t.samp.gapCnt)) = some (.wsl, 0, 1) := by decide
/-- V-S25 -/
theorem test_hlt :
    see ((pendingDev false true false 1 (pend8 0xE0#8)).goto .hlt) (sample false false)
      (fun t => (t.samp.sampState, t.dec.ext, t.dec.pending, t.events)) = some (.hlt, true, [0xE0#8], []) := by decide
/-- V-S26 -/
theorem test_cancel :
    see (sampling .wbl 4 0x0C#8 false) { rst := false, cancel := true, clk := false, data := false } (fun t => t.samp)
      = some { Sampler.reset with sampState := .hlt, bitIdx := 4, frmData := 0x0C#8 } := by decide
/-- V-S28: reset wins over cancel. -/
theorem test_reset_wins :
    see ((pendingDev true false false 1 (pend8 0xF0#8)).goto .hlt)
      { rst := true, cancel := true, clk := true, data := true } (fun t => (t.samp, t.dec, t.events))
      = some (Sampler.reset, Decoder.reset, []) := by decide
/-- V-R1, V-R2 -/
theorem test_rsy_idle :
    see (sampling .rsy 0 0x00#8 false) (sample true true) (fun t => (t.samp.sampState, t.samp.startCnt, t.events))
      = some (.wsl, 0, [.resync true])
      ∧ see (sampling .rsy 0 0x00#8 false) (sample true false) (fun t => (t.samp.sampState, t.samp.resyncCnt, t.events))
        = some (.rsy, 1, []) := by decide
/-- V-R4, V-R5: the idle test wins on the last poll. That `resync_cnt` stays 3 is the line on it in program P13 (log
entry 19). -/
theorem test_rsy_last_poll :
    see (dev.withSamp { Sampler.reset with sampState := .rsy, resyncCnt := 3 }) (sample false false)
      (fun t => (t.samp.sampState, t.samp.startCnt, t.samp.resyncCnt, t.events)) = some (.wsl, 0, 3, [.resync false])
      ∧ see (dev.withSamp { Sampler.reset with sampState := .rsy, resyncCnt := 3 }) (sample true true)
        (fun t => (t.samp.sampState, t.events)) = some (.wsl, [.resync true]) := by decide

/-! ### The validator's classes and the decoder -/

/-- V-F12: a parity mismatch is reported and gates nothing. -/
theorem test_frame_valid :
    does (.frameValid false 0xFF#8) dev (fun t => (t.samp.sampState, t.events)) =
      some (.wsl, [.frame ⟨0x5FE#11, 0xFF#8, true, false⟩, .key ⟨0x00#8, 0xFF#8, .press, false, [0xFF#8]⟩]) := by
  decide
/-- V-S22: with `P_GAP` = 2 a valid prefix frame. -/
theorem test_frame_valid_gap :
    does (.frameValid true 0xF0#8) gapDev
      (fun t => (t.samp.sampState, t.samp.gapCnt, t.dec.brk, t.dec.pending, t.events)) =
      some (.gap, 0, true, [0xF0#8], [.frame ⟨0x7E0#11, 0xF0#8, true, true⟩]) := by decide
/-- V-F7 -/
theorem test_frame_bad_start :
    does (.frameBadStart true false 0x1C#8) dev (fun t => (t.samp.sampState, t.events)) =
      some (.rsy, [.frame ⟨0x439#11, 0x1C#8, false, true⟩]) := by decide
/-- V-F8 -/
theorem test_frame_bad_stop :
    does (.frameBadStop false 0x1C#8) dev (fun t => (t.samp.sampState, t.events)) =
      some (.rsy, [.frame ⟨0x038#11, 0x1C#8, false, true⟩]) := by decide
/-- V-D2 -/
theorem test_pfx_ext :
    does .pfxExt dev (fun t => (t.dec.ext, t.dec.brk, t.dec.pending, t.events)) = some (true, false, [0xE0#8], []) := by
  decide
/-- V-OV1 -/
theorem test_pfx_ext_overflow :
    does .pfxExt (pendingDev false true false 8 (pend8 0xE0#8)) (fun t => (t.dec.ext, t.dec.plen, t.events)) =
      some (false, 0, [.overflow (List.replicate 9 0xE0#8)]) := by decide
/-- V-D3 -/
theorem test_pfx_break :
    does .pfxBreak dev (fun t => (t.dec.brk, t.dec.ext, t.dec.pending, t.events)) = some (true, false, [0xF0#8], []) := by
  decide
/-- V-OV3 -/
theorem test_pfx_break_overflow :
    does .pfxBreak
      (pendingDev true false true 8 #v[0xE1#8, 0xF0#8, 0xF0#8, 0xF0#8, 0xF0#8, 0xF0#8, 0xF0#8, 0xF0#8])
      (fun t => (t.dec.brk, t.dec.pause, t.dec.plen, t.events)) =
      some (false, false, 0, [.overflow (0xE1#8 :: List.replicate 8 0xF0#8)]) := by decide
/-- V-D5: `dec_break` stays 1. -/
theorem test_pfx_pause :
    does .pfxPause (pendingDev true false false 1 (pend8 0xF0#8))
      (fun t => (t.dec.brk, t.dec.pause, t.dec.pending, t.events)) = some (true, true, [0xE1#8], []) := by decide
/-- V-OV4 -/
theorem test_pfx_pause_twice :
    does .pfxPause (pendingDev false false true 1 (pend8 0xE1#8)) (fun t => (t.dec.plen, t.dec.pending, t.events)) =
      some (1, [0xE1#8], []) := by decide
/-- V-D8 -/
theorem test_terminal_ext_release :
    does (.terminal 0x75#8)
      (pendingDev true true false 2 #v[0xE0#8, 0xF0#8, 0x00#8, 0x00#8, 0x00#8, 0x00#8, 0x00#8, 0x00#8])
      (fun t => (t.dec.brk, t.dec.ext, t.dec.plen, t.events)) =
      some (false, false, 0, [.key ⟨0x7A#8, 0x75#8, .release, true, [0xE0#8, 0xF0#8, 0x75#8]⟩]) := by decide
/-- V-D12: an unmapped byte still gives a key event. -/
theorem test_terminal_unmapped :
    does (.terminal 0x02#8) (pendingDev false true false 1 (pend8 0xE0#8)) (fun t => t.events) =
      some [.key ⟨0x00#8, 0x02#8, .press, true, [0xE0#8, 0x02#8]⟩] := by decide

/-! ### Tables and names -/

/-- V-T1, V-T2, V-T3, V-T4 -/
theorem test_rom : Cfg.tcfg.romRead .base 0x1C#8 = 0x14#8 ∧ Cfg.tcfg.romRead .ext 0x75#8 = 0x7A#8
    ∧ Cfg.tcfg.romRead .base 0x02#8 = 0x00#8 ∧ Cfg.tcfg.romRead .base 0x75#8 = 0x4C#8 := by decide
/-- V-T4, V-T8, V-T9 -/
theorem test_names : Cfg.tcfg.nameOf 0x4C#8 = some "KP_8" ∧ fallback true 0xAB#8 = "UNKNOWN_E0_AB"
    ∧ Cfg.tcfg.keyName 0x00#8 false 0x02#8 = some "UNKNOWN_02" := by decide
/-- R23 to R25 by hand: budgets 4, 4 and gap 0 need 2, 2 and 1 bits; a budget of 5 needs 3. -/
theorem test_widths : Cfg.tcfg.wStart = 2 ∧ Cfg.tcfg.wResync = 2 ∧ Cfg.tcfg.wGap = 1 ∧ counterWidth 5 = 3 := by
  decide
/-- R9: a bad configuration is refused. -/
theorem test_configure_refuses : configure { Cfg.tcfg with startTimeout := 0 } = .refused .invalidConfiguration := rfl

/-! ### Stimuli -/

/-- V-F1, V-F2, V-F5: the frame words of `FRAME 00`, `FRAME 01` and `FRAME AA`. -/
theorem test_frame_words : frameWordOf false 0x00#8 (oddParityBit 0x00#8) true = 0x600#11
    ∧ frameWordOf false 0x01#8 (oddParityBit 0x01#8) true = 0x402#11
    ∧ frameWordOf false 0xAA#8 (oddParityBit 0xAA#8) true = 0x754#11 := by decide
/-- `withFetchWord` runs the word in the very next step: CANCEL as a 4-bit word, and PFX_EXT as a byte. -/
theorem test_withFetchWord :
    (match step (dev.withFetchWord 4 0b0100) with
      | .next t => t.samp.sampState
      | _ => .wsl) = .hlt
    ∧ (match step (dev.withFetchWord 8 0xE0) with
      | .next t => t.dec.pending
      | _ => []) = [0xE0#8] := by decide
/-- R233 item 4: the first tick with both pins LOW samples `11` out of the preset flops. -/
theorem test_cycle_through_synchronizers :
    (match step { dev with inputs := [.cycle { tick := true, rst := false, cancel := false, ps2Clk := false, ps2Data := false }] } with
      | .next t => (t.samp.sampState, t.samp.startCnt)
      | _ => (.hlt, 0)) = (.wsl, 1) := by decide

/-! ### Witnesses: states and operands that meet the hypotheses of the obligations, at the ends of their ranges -/

theorem witness_DecodeOfEncodeIsTheInstruction :
    Instr.wf (.frameBadStart true true 0xFF#8) = true ∧ Instr.wf (.terminal 0xEF#8) = true := by decide
theorem witness_EncodeOfDecodeIsTheWord : decode (.transition 0b100111#6) = .ok (.hltAny true true)
    ∧ decode (.scanByte 0xE2#8) = .ok (.terminal 0xE2#8) := by decide
theorem witness_ReservedStateCodesAreRefused :
    0xA ≤ ((0b101000#6 : TransitionWord).extractLsb' 2 4).toNat
      ∧ ¬ 0xA ≤ ((0b100111#6 : TransitionWord).extractLsb' 2 4).toNat := by decide
/-- One word for each class: 0x400, 0x401 and 0x3FE. -/
theorem witness_FrameClassIsDecidedByStartAndStop :
    ((0x400#11 : FrameWord).getLsbD 0 = false ∧ (0x400#11 : FrameWord).getLsbD 10 = true)
      ∧ (0x401#11 : FrameWord).getLsbD 0 = true
      ∧ ((0x3FE#11 : FrameWord).getLsbD 0 = false ∧ (0x3FE#11 : FrameWord).getLsbD 10 = false) := by decide
theorem witness_ScanByteClasses :
    (0x00#8 ≠ 0xE0#8 ∧ 0x00#8 ≠ 0xE1#8 ∧ 0x00#8 ≠ 0xF0#8)
      ∧ (0xE2#8 ≠ 0xE0#8 ∧ 0xE2#8 ≠ 0xE1#8 ∧ 0xE2#8 ≠ 0xF0#8)
      ∧ (0xFF#8 ≠ 0xE0#8 ∧ 0xFF#8 ≠ 0xE1#8 ∧ 0xFF#8 ≠ 0xF0#8) := by decide
/-- One configuration for each disjunct of the first clause. -/
theorem witness_BadConfigurationsAreRefused :
    ({ Cfg.tcfg with startTimeout := 0 } : Cfg).startTimeout = 0
      ∧ ({ Cfg.tcfg with resyncTimeout := 0 } : Cfg).resyncTimeout = 0
      ∧ ({ Cfg.tcfg with pollDiv := 0 } : Cfg).pollDiv = 0
      ∧ (isPrefix 0x75#8 = false
        ∧ ({ Cfg.tcfg with extRom := [(0x75, 0xFF#8)] } : Cfg).romRead .ext 0x75#8 ≠ 0x00#8
        ∧ ({ Cfg.tcfg with extRom := [(0x75, 0xFF#8)] } : Cfg).nameOf
          (({ Cfg.tcfg with extRom := [(0x75, 0xFF#8)] } : Cfg).romRead .ext 0x75#8) = none)
      ∧ ({ Cfg.tcfg with baseRom := [] } : Cfg).nameOf (Rom.read [] 0x1C#8) ≠ some "A"
      ∧ ({ Cfg.tcfg with extRom := [] } : Cfg).nameOf (Rom.read [] 0x75#8) ≠ some "UP"
      ∧ Rom.read ({ Cfg.tcfg with baseRom := [(0x02, 0x14#8)] } : Cfg).baseRom 0x02#8 ≠ 0x00#8 := by decide
/-- The least configuration: budgets and divider 1, and in the ROMs the entries of R181 and, at the prefix byte 0xE0,
an id without a name (R183). -/
def leastCfg : Cfg :=
  { startTimeout := 1, resyncTimeout := 1, gap := 0, pollDiv := 1, syncStages := 0
    baseRom := [(0x1C, 0x01#8), (0xE0, 0xFF#8)], extRom := [(0x75, 0x02#8)], keyNames := [(0x01#8, "A"), (0x02#8, "UP")] }
/-- It meets every premise of the second clause, and so does TCFG. -/
theorem witness_AdmissibleConfigurations :
    (1 ≤ leastCfg.startTimeout ∧ 1 ≤ leastCfg.resyncTimeout ∧ 1 ≤ leastCfg.pollDiv ∧ Rom.wf leastCfg.baseRom = true
      ∧ Rom.wf leastCfg.extRom = true ∧ KeyNames.wf 0x00#8 leastCfg.keyNames = true
      ∧ (∀ (ns : Namespace) (a : Byte), isPrefix a = false → leastCfg.romRead ns a ≠ 0x00#8 →
        ∃ name, leastCfg.nameOf (leastCfg.romRead ns a) = some name)
      ∧ leastCfg.nameOf (Rom.read leastCfg.baseRom 0x1C#8) = some "A"
      ∧ leastCfg.nameOf (Rom.read leastCfg.extRom 0x75#8) = some "UP"
      ∧ Rom.read leastCfg.baseRom 0x02#8 = 0x00#8)
    ∧ leastCfg.nameOf (leastCfg.romRead .base 0xE0#8) = none ∧ Cfg.tcfg.wf = true := by
  refine ⟨⟨by decide, by decide, by decide, by decide, by decide, by decide, ?_, by decide, by decide, by decide⟩,
    by decide, by decide⟩
  intro ns a hp h
  have hr : Rom.wf leastCfg.baseRom = true ∧ Rom.wf leastCfg.extRom = true := by decide
  have hn : leastCfg.romNamed leastCfg.baseRom = true ∧ leastCfg.romNamed leastCfg.extRom = true := by decide
  rw [← Option.isSome_iff_exists]
  cases ns
  · exact (Cfg.romNamed_iff hr.1).1 hn.1 a hp h
  · exact (Cfg.romNamed_iff hr.2).1 hn.2 a hp h
/-- A poll, and a cycle without a tick. -/
theorem witness_ResetWinsInEveryStep :
    (dev.offer { rst := true, cancel := true, clk := false, data := false }).inputs
        = [.poll { rst := true, cancel := true, clk := false, data := false }]
      ∧ ({ dev with inputs := [.cycle ⟨false, true, false, true, true⟩] } : State).inputs
        = [.cycle { tick := false, rst := true, cancel := false, ps2Clk := true, ps2Data := true }] := by decide
theorem witness_CancelHaltsAndWritesNothingElse :
    (dev.offer { rst := false, cancel := true, clk := true, data := false }).inputs
      = [.poll { rst := false, cancel := true, clk := true, data := false }] := by decide
/-- A plain poll, a cancel and a reset; and after reset, with no stimulus told, the word of the free input. -/
theorem witness_StepRunsTheDecodedInstruction :
    (dev.offer (sample false true)).inputs = [.poll (sample false true)]
      ∧ decode (.transition (transitionWord dev.samp.sampState ⟨false, true⟩)) = .ok (.wslClkLow true)
      ∧ decode (.control (Input.word ⟨false, true, false, true⟩)) = .ok (.cancel false true)
      ∧ decode (.control (Input.word ⟨true, false, false, true⟩)) = .ok (.reset false false true)
      ∧ State.reset.inputs = []
      ∧ ∃ instr, decode (fetchCode (Config.freeInput State.reset.freeIdx) State.reset) = .ok instr :=
  ⟨rfl, rfl, rfl, rfl, rfl, _, decode_fetchCode _ _⟩
/-- A cycle with a tick and one without. -/
theorem witness_StepIsTakenOnlyOnATick :
    ({ dev with inputs := [.cycle ⟨true, false, false, false, true⟩] } : State).inputs
        = [.cycle { tick := true, rst := false, cancel := false, ps2Clk := false, ps2Data := true }]
      ∧ ({ dev with inputs := [.cycle ⟨false, false, false, false, true⟩] } : State).inputs
        = [.cycle { tick := false, rst := false, cancel := false, ps2Clk := false, ps2Data := true }] := by decide
/-- A pin sample (clock LOW, data HIGH) that comes out after one tick through one flop and after two through two. -/
theorem witness_FirstTicksAfterResetSampleIdle :
    ([] : List Line).length < 1 ∧ [({ clk := false, data := false } : Line)].length < 2
      ∧ ([⟨false, true⟩] : List Line).length = ([idleLine] : List Line).length
      ∧ ([⟨false, true⟩, ⟨false, false⟩] : List Line).length = (syncPreset Cfg.test).length := by decide
/-- TCFG with `P_POLL_DIV` = 3: two hold cycles stand before the one with the tick, and `cancel_i` may be 1 in them. -/
def slowDev : State := { dev with cfg := if h : ({ Cfg.tcfg with pollDiv := 3 } : Cfg).wf = true then ⟨_, h⟩ else Cfg.test }
/-- A divider of 1 and of 3. -/
theorem witness_APollOfManyCyclesIsOneStep :
    ({ dev with inputs := pollCycles dev.cfg.raw ⟨false, false, false, false, true⟩ } : State).inputs
      = pollCycles dev.cfg.raw ⟨false, false, false, false, true⟩ ++ []
      ∧ ({ slowDev with inputs := pollCycles slowDev.cfg.raw ⟨false, false, true, false, true⟩ } : State).inputs
        = [.cycle ⟨false, false, true, false, true⟩, .cycle ⟨false, false, true, false, true⟩,
           .cycle ⟨true, false, true, false, true⟩] ++ []
      ∧ slowDev.cfg.raw.pollDiv = 3 := by decide
/-- A step goes on: `ConfigurationIsNeverWritten`, `PauseFlagIsNeverRead`, `SamplerIgnoresTheDecoder`,
`EventListsOfEachStep`. -/
theorem witness_step_goes_on : (∃ t, step (dev.offer (sample true true)) = .next t)
    ∧ (dev.offer (sample true true)).inputs = [.poll (sample true true)]
    ∧ (dev.offer (sample true true)).holds = false := ⟨⟨_, rfl⟩, rfl, rfl⟩
/-- The last poll of the budget and the one before it, under a budget of 1 and of 4. -/
theorem witness_StartWaitSamplesCountsOrTimesOut :
    (devWith 1 4 0).samp.startCnt = (devWith 1 4 0).cfg.raw.startTimeout - 1
      ∧ dev.samp.startCnt ≠ dev.cfg.raw.startTimeout - 1 := by decide
/-- Slots 0, 6 and 7. -/
theorem witness_DataSlotEndAdvancesOrGoesToParity :
    ((sampling .wbh 0 0x00#8 false).samp.bitIdx.val < 7 ∧ (1 : Fin 8).val = (sampling .wbh 0 0x00#8 false).samp.bitIdx.val + 1)
      ∧ ((sampling .wbh 6 0x00#8 false).samp.bitIdx.val < 7
        ∧ (7 : Fin 8).val = (sampling .wbh 6 0x00#8 false).samp.bitIdx.val + 1)
      ∧ (sampling .wbh 7 0x00#8 false).samp.bitIdx.val = 7 := by decide
/-- A good start bit with a terminal byte, and a bad one. -/
theorem witness_StopSampleCompletesTheFrame :
    ((sampling .wtl 7 0x1C#8 false).samp.frmStart = false
        ∧ decode (.scanByte (sampling .wtl 7 0x1C#8 false).samp.frmData) = .ok (.terminal 0x1C#8))
      ∧ (dev.withSamp { Sampler.reset with frmStart := true }).samp.frmStart = true := by decide
/-- `P_GAP` = 2: the last poll of the gap and the one before it; and with `P_GAP` = 0 the count is at its end. -/
theorem witness_GapCountsAndEnds :
    (gapDev.withSamp { Sampler.reset with gapCnt := 1 }).samp.gapCnt
        = (gapDev.withSamp { Sampler.reset with gapCnt := 1 }).cfg.raw.gap - 1
      ∧ gapDev.samp.gapCnt ≠ gapDev.cfg.raw.gap - 1 ∧ dev.samp.gapCnt = dev.cfg.raw.gap - 1 := by decide
theorem witness_ResyncReportsIdleOrTimesOut :
    (devWith 4 1 0).samp.resyncCnt = (devWith 4 1 0).cfg.raw.resyncTimeout - 1
      ∧ dev.samp.resyncCnt ≠ dev.cfg.raw.resyncTimeout - 1 := by decide
theorem witness_ValidityAndParityOfAFrame :
    ((0x400#11 : FrameWord).getLsbD 0 = false ∧ (0x400#11 : FrameWord).getLsbD 10 = true)
      ∧ popcount ((0x600#11 : FrameWord).extractLsb' 1 9) % 2 = 1 := by decide
theorem witness_FrameClassesRouteTheByte : decode (.scanByte 0xE1#8) = .ok .pfxPause
    ∧ decode (.scanByte 0xFF#8) = .ok (.terminal 0xFF#8) := by decide
/-- An empty buffer, seven bytes pending, and eight. -/
theorem witness_PrefixAppendsOrOverflows : dev.dec.plen.val < 8
    ∧ (pendingDev false true false 7 (pend8 0xE0#8)).dec.plen.val < 8
    ∧ (pendingDev false true false 8 (pend8 0xE0#8)).dec.plen = 8 := by decide
/-- The step of V-S18 emits a key event; that of `FRAME E0` with eight bytes pending an overflow. -/
theorem witness_RawByteCounts :
    ((sampling .wtl 7 0x1C#8 false).offer (sample false true)).holds = false
      ∧ see (sampling .wtl 7 0x1C#8 false) (sample false true)
        (fun t => t.events.contains (.key ⟨0x14#8, 0x1C#8, .press, false, [0x1C#8]⟩)) = some true
      ∧ see ((pendingDev false true false 8 (pend8 0xE0#8)).withSamp (sampling .wtl 7 0xE0#8 false).samp)
        (sample false true) (fun t => t.events.contains (.overflow (List.replicate 9 0xE0#8))) = some true := by decide
/-- The step that completes a valid frame, and a poll that does not. -/
theorem witness_OnlyAValidFrameWritesTheDecoder :
    (sampling .wtl 7 0xF0#8 true).samp.sampState = .wtl ∧ (sampling .wtl 7 0xF0#8 true).samp.frmStart = false
      ∧ see (sampling .wtl 7 0xF0#8 true) (sample false true) (fun t => t.dec.pending) = some [0xF0#8]
      ∧ see (sampling .wtl 7 0xF0#8 true) (sample false false) (fun t => t.dec.pending) = some [] := by decide
theorem witness_OverflowComesAtTheNinthPrefix :
    dev.dec.plen = 0 ∧ (List.replicate 8 0xE0#8).length = 8
      ∧ (∀ x ∈ List.replicate 8 0xE0#8, x = 0xE0#8 ∨ x = 0xF0#8) ∧ isPrefix 0x1C#8 = false := by decide
theorem witness_PausePrefixRestartsTheOverflowCount :
    (List.replicate 8 0xF0#8).length = 8 ∧ ∀ x ∈ List.replicate 8 0xF0#8, x = 0xE0#8 ∨ x = 0xF0#8 := by decide
theorem witness_PauseSequenceGivesFourKeyEvents :
    dev.dec.plen = 0 ∧ dev.dec.brk = false ∧ dev.dec.ext = false := by decide
/-- A mapped and an unmapped byte. -/
theorem witness_EveryKeyEventHasAName :
    see (sampling .wtl 7 0x1C#8 false) (sample false true)
        (fun t => t.events.contains (.key ⟨0x14#8, 0x1C#8, .press, false, [0x1C#8]⟩)) = some true
      ∧ see (sampling .wtl 7 0x02#8 false) (sample false true)
        (fun t => t.events.contains (.key ⟨0x00#8, 0x02#8, .press, false, [0x02#8]⟩)) = some true := by decide
theorem witness_CanonicalRomsThatReadTheSameAreEqual :
    Rom.wf [] = true ∧ Rom.wf [(0x00, 0x01#8), (0xFF, 0x01#8)] = true ∧ ∀ a : Byte, Rom.read [] a = Rom.read [] a :=
  ⟨rfl, rfl, fun _ => rfl⟩
/-- Eight bytes pending and a frame with this byte about to complete. -/
def fullDev (value : Byte) : State :=
  (pendingDev false true false 8 (pend8 0xE0#8)).withSamp (sampling .wtl 7 value false).samp
/-- The event lists of V-S1, V-S2, V-S19, V-R1 and V-S18, an overflow with the nine bytes of V-OV1, and a key event
with nine raw bytes. -/
theorem witness_PortsShowTheEventsOfTheStep :
    see dev (sample true true) (fun t => t.events) = some []
      ∧ see (dev.withSamp { Sampler.reset with startCnt := 3 }) (sample true true) (fun t => t.events)
        = some [.startTimeout]
      ∧ see (sampling .wtl 7 0x1C#8 false) (sample false false) (fun t => t.events)
        = some [.frame ⟨0x038#11, 0x1C#8, false, true⟩]
      ∧ see (sampling .rsy 0 0x00#8 false) (sample true true) (fun t => t.events) = some [.resync true]
      ∧ see (sampling .wtl 7 0x1C#8 false) (sample false true) (fun t => t.events)
        = some [.frame ⟨0x438#11, 0x1C#8, true, true⟩, .key ⟨0x14#8, 0x1C#8, .press, false, [0x1C#8]⟩]
      ∧ see (fullDev 0xE0#8) (sample false true) (fun t => t.events)
        = some [.frame ⟨0x5C0#11, 0xE0#8, true, true⟩, .overflow (List.replicate 9 0xE0#8)]
      ∧ see (fullDev 0x75#8) (sample false true) (fun t => t.events)
        = some [.frame ⟨0x4EA#11, 0x75#8, true, true⟩,
          .key ⟨0x7A#8, 0x75#8, .press, true, List.replicate 8 0xE0#8 ++ [0x75#8]⟩] := by decide
/-- A step for each cause and sub-cause: V-S2, V-S19 (bad stop), V-S20 (bad start), V-R4, an unmapped byte, an overflow;
and V-R1 and V-S18, which report none. -/
theorem witness_ErrorTaxonomyOfEachStep :
    see (dev.withSamp { Sampler.reset with startCnt := 3 }) (sample true true) (fun t => t.events.map Event.cause)
        = some [some .frameTimeout]
      ∧ see (sampling .wtl 7 0x1C#8 false) (sample false false) (fun t => t.events.map Event.cause)
        = some [some (.frameInvalid false)]
      ∧ see (dev.withSamp { (sampling .wtl 7 0x1C#8 false).samp with frmStart := true }) (sample false true)
        (fun t => t.events.map Event.cause) = some [some (.frameInvalid true)]
      ∧ see (dev.withSamp { Sampler.reset with sampState := .rsy, resyncCnt := 3 }) (sample false false)
        (fun t => t.events.map Event.cause) = some [some .resyncTimeout]
      ∧ see (sampling .wtl 7 0x02#8 false) (sample false true) (fun t => t.events.map Event.cause)
        = some [none, some .unknownScanCode]
      ∧ see (fullDev 0xE0#8) (sample false true) (fun t => t.events.map Event.cause)
        = some [none, some .sequenceOverflow]
      ∧ see (sampling .rsy 0 0x00#8 false) (sample true true) (fun t => t.events.map Event.cause) = some [none]
      ∧ see (sampling .wtl 7 0x1C#8 false) (sample false true) (fun t => t.events.map Event.cause)
        = some [none, none] := by decide
/-- The invariant holds of a state in the middle of a frame with a prefix pending, and its step goes on. -/
theorem witness_EveryStepKeepsTheInvariant :
    Inv ((sampling .wbl 2 0x01#8 false).withDec (pendingDev true false true 2
        #v[0xE1#8, 0xF0#8, 0x00#8, 0x00#8, 0x00#8, 0x00#8, 0x00#8, 0x00#8]).dec)
      ∧ ∃ t, step ((sampling .wbl 2 0x01#8 false).withDec (pendingDev true false true 2
        #v[0xE1#8, 0xF0#8, 0x00#8, 0x00#8, 0x00#8, 0x00#8, 0x00#8, 0x00#8]).dec) = .next t := by
  refine ⟨⟨⟨by decide, by decide, by decide, by decide⟩, ⟨by decide, by decide, by decide, by decide⟩, ?_, rfl⟩, ?_⟩
  · show ∀ j : Fin 8, (2 : Fin 8) ≤ j → (0x01#8 : Byte).getLsbD j.val = false
    decide
  · rw [step_eq]
    exact ⟨_, exec_eq _ _⟩
theorem witness_ResyncIsEnteredOnlyAfterAnInvalidFrame :
    see (sampling .wtl 7 0x1C#8 false) (sample false false) (fun t => t.samp.sampState) = some .rsy
      ∧ (sampling .wtl 7 0x1C#8 false).samp.sampState ≠ .rsy := by decide
theorem witness_OnlyResetLeavesHalted :
    (sampling .hlt 0 0x00#8 false).samp.sampState = .hlt
      ∧ ∀ i ∈ [sample true true, { rst := false, cancel := true, clk := false, data := false }], i.rst = false := by
  decide
/-- A wait for HIGH and a wait for LOW. -/
theorem witness_MidFrameWaitsAreUnbounded :
    (sampling .wsh 0 0x00#8 false).samp.sampState = .wsh ∧ (sampling .wtl 7 0x00#8 false).samp.sampState = .wtl
      ∧ (∀ i ∈ [sample false true, sample false false], Plain i ∧ i.clk = false)
      ∧ (∀ i ∈ [sample true true, sample true false], Plain i ∧ i.clk = true) := by simp [sample, Plain, sampling]
/-- A budget of 4 and a budget of 1. -/
theorem witness_StartTimeoutComesOnTheLastPollOfTheBudget :
    dev.samp.sampState = .wsl ∧ dev.samp.startCnt = 0
      ∧ (∀ i ∈ List.replicate 4 (sample true false), Plain i ∧ i.clk = true)
      ∧ (List.replicate 4 (sample true false)).length = dev.cfg.raw.startTimeout
      ∧ [sample true true].length = (devWith 1 4 0).cfg.raw.startTimeout := by
  refine ⟨rfl, rfl, by simp [sample, Plain], rfl, by decide⟩
theorem witness_GapLastsExactlyItsPolls :
    (gapDev.goto .gap).samp.sampState = .gap ∧ (gapDev.goto .gap).samp.gapCnt = 0
      ∧ 1 ≤ (gapDev.goto .gap).cfg.raw.gap
      ∧ (∀ i ∈ [sample false true, sample true true], Plain i)
      ∧ [sample false true, sample true true].length = (gapDev.goto .gap).cfg.raw.gap := by
  refine ⟨rfl, rfl, by decide, by simp [sample, Plain], by decide⟩
/-- An idle sample on the last poll of the window, and a window without one. -/
theorem witness_ResyncSucceedsIffIdleIsSeenInTheWindow :
    (dev.goto .rsy).samp.sampState = .rsy ∧ (dev.goto .rsy).samp.resyncCnt = 0
      ∧ [sample true false, sample false true, sample false false, sample true true].length
        = (dev.goto .rsy).cfg.raw.resyncTimeout
      ∧ [sample true false, sample false true, sample false false, sample true true][3]? = some (sample true true)
      ∧ (∀ i ∈ List.replicate 4 (sample true false), Plain i ∧ ¬(i.clk = true ∧ i.data = true)) := by
  refine ⟨rfl, rfl, rfl, rfl, by simp [sample, Plain]⟩
theorem witness_FrameIsReceivedExactly :
    (dev.load [.frameOf 0x1C#8]).samp.sampState = .wsl
      ∧ (dev.load [.frameOf 0x1C#8]).inputs = polls (frameSamples 0x1C#8 false (oddParityBit 0x1C#8) true) ++ [] := by
  decide
/-- The one run of this file: `FRAME 1C start=1 stop=0` completes at the 21st step, with V-F9's frame word. -/
theorem witness_NoFrameCompletesBeforeStep21 :
    (dev.load [.frame 0x1C#8 true false false]).samp.sampState = .wsl
      ∧ (trace 21 (dev.load [.frame 0x1C#8 true false false]))[20]?
        = some [.frame ⟨0x039#11, 0x1C#8, false, true⟩] := by decide
/-- `P_GAP` = 0 and `P_GAP` = 1. -/
theorem witness_SerialReceptionRefinesByteDecoding :
    dev.samp.sampState = .wsl ∧ dev.cfg.raw.gap ≤ 1 ∧ (devWith 4 4 1).cfg.raw.gap = 1
      ∧ (dev.load [.bytes [0xE0#8, 0x75#8]]).inputs = polls (Stmt.bytes [0xE0#8, 0x75#8]).inputs ++ [] := by decide
theorem witness_StopSlotIsRecapturedWithoutAGap :
    (sampling .wtl 7 0x1C#8 false).samp.sampState = .wtl ∧ (sampling .wtl 7 0x1C#8 false).samp.frmStart = false
      ∧ (sampling .wtl 7 0x1C#8 false).cfg.raw.gap = 0 ∧ Plain (sample false true)
      ∧ (sample false true).clk = false ∧ (sample false true).data = true := by
  refine ⟨rfl, rfl, rfl, ⟨rfl, rfl⟩, rfl, rfl⟩

end Sys2Proof.Tests
end

section
/-! PROOFS for spec/00_scope.md: the refusal of a bad configuration, totality of the step, and the raw bytes of the
decoder's events. -/

namespace Sys2Proof

open Machine

/-! ### The check of a configuration -/

/-- The admissible configurations, in the spec's words: the constraints of R8, the canonical form of ROMs and names
(log entries 14 and 16), a name for every word that can be read (R80, R183), and the entries of R181.
`Cfg.wf_iff_admissible` ties it to the model's check. -/
structure Cfg.Admissible (c : Cfg) : Prop where
  startTimeout : 1 ≤ c.startTimeout
  resyncTimeout : 1 ≤ c.resyncTimeout
  pollDiv : 1 ≤ c.pollDiv
  baseRom : Rom.wf c.baseRom = true
  extRom : Rom.wf c.extRom = true
  keyNames : KeyNames.wf 0x00#8 c.keyNames = true
  named : ∀ (ns : Namespace) (a : Byte), isPrefix a = false → c.romRead ns a ≠ 0x00#8 →
    (c.nameOf (c.romRead ns a)).isSome = true
  keyA : c.nameOf (Rom.read c.baseRom 0x1C#8) = some "A"
  keyUp : c.nameOf (Rom.read c.extRom 0x75#8) = some "UP"
  unmapped : Rom.read c.baseRom 0x02#8 = 0x00#8

/-- An id that has a name is not 0x00 (R80). -/
theorem Cfg.ne_zero_of_nameOf {c : Cfg} (h : KeyNames.wf 0x00#8 c.keyNames = true) {id : Byte} {name : String}
    (hn : c.nameOf id = some name) : id ≠ 0x00#8 := by
  rintro rfl
  have hnone : c.nameOf 0x00#8 = none := KeyNames.get_of_le h (Nat.le_refl _)
  simp [hnone] at hn

/-- The check of both ROMs' names, by namespace. -/
theorem Cfg.romNamed_both_iff {c : Cfg} (hb : Rom.wf c.baseRom = true) (he : Rom.wf c.extRom = true) :
    (c.romNamed c.baseRom = true ∧ c.romNamed c.extRom = true) ↔
      ∀ (ns : Namespace) (a : Byte), isPrefix a = false → c.romRead ns a ≠ 0x00#8 →
        (c.nameOf (c.romRead ns a)).isSome = true := by
  rw [Cfg.romNamed_iff hb, Cfg.romNamed_iff he]
  constructor
  · rintro ⟨hbase, hext⟩ (_ | _)
    · exact hbase
    · exact hext
  · exact fun h => ⟨h .base, h .ext⟩

/-- The model's check accepts exactly the admissible configurations (R9). -/
theorem Cfg.wf_iff_admissible (c : Cfg) : c.wf = true ↔ c.Admissible := by
  simp only [Cfg.wf, Cfg.lookup, Namespace.ofExt, Cfg.romRead, Bool.and_eq_true, decide_eq_true_eq, bne_iff_ne,
    beq_iff_eq, Bool.false_eq_true, if_false, if_true, and_assoc]
  constructor
  · rintro ⟨hs, hr, hp, hb, he, hk, hnb, hne, -, hA, -, hU, h2⟩
    exact ⟨hs, hr, hp, hb, he, hk, (Cfg.romNamed_both_iff hb he).1 ⟨hnb, hne⟩, hA, hU, h2⟩
  · rintro ⟨hs, hr, hp, hb, he, hk, hn, hA, hU, h2⟩
    obtain ⟨hnb, hne⟩ := (Cfg.romNamed_both_iff hb he).2 hn
    exact ⟨hs, hr, hp, hb, he, hk, hnb, hne, Cfg.ne_zero_of_nameOf hk hA, hA, Cfg.ne_zero_of_nameOf hk hU, hU, h2⟩

end Sys2Proof

namespace Sys2Proof.Machine

/-- A valid configuration gives the block after reset (R9). -/
theorem configure_valid (v : Cfg.Valid) : configure v.raw = .next (State.resetWith v) := by
  simp [configure, v.ok]

/-- An inadmissible configuration is refused (R9). -/
theorem configure_of_not_admissible {c : Cfg} (h : ¬ c.Admissible) :
    configure c = .refused .invalidConfiguration := by
  rw [← Cfg.wf_iff_admissible] at h
  simp [configure, h]

/-! ### The events of a step -/

/-- A step of the block emits nothing, or the events of a transition on some sample (R100, R209). -/
theorem step_events {s t : State} (hs : s.holds = false) (h : step s = .next t) :
    t.events = [] ∨ ∃ l, t.events = plainEvents s.cfg.raw s.samp s.dec l := by
  rcases step_inv h with ⟨-, hhold, -⟩ | ⟨i, sync, -, -, rfl⟩
  · simp [State.holds, hhold] at hs
  · cases i.rst
    · cases i.cancel
      · exact .inr ⟨_, rfl⟩
      · exact .inl rfl
    · exact .inl rfl

/-- The decoder's events of a transition are those of a byte: only the completion of a valid frame gives them
(R107, R135). -/
theorem mem_scanEvents_of_mem_plainEvents {c : Cfg} {x : Sampler} {d : Decoder} {l : Line} {e : Event}
    (he : e.ofDecoder = true) (h : e ∈ plainEvents c x d l) : ∃ b, e ∈ scanEvents c d b := by
  have hstart : e ≠ .startTimeout := by rintro rfl; cases he
  have hframe : ∀ f, e ≠ .frame f := by rintro f rfl; cases he
  have hresync : ∀ ok, e ≠ .resync ok := by rintro ok rfl; cases he
  unfold plainEvents at h
  split at h
  case h_1 => split at h <;> simp [hstart] at h
  case h_2 =>
    split at h
    · cases h
    · split at h
      · exact ⟨_, (List.mem_cons.1 h).resolve_left (hframe _)⟩
      · simp [hframe] at h
  case h_3 =>
    split at h
    · simp [hresync] at h
    · split at h <;> simp [hresync] at h
  all_goals cases h

/-- A key event of a byte carries the pending bytes followed by its terminal byte (R154, R161). -/
theorem raw_of_key_mem_scanEvents {c : Cfg} {d : Decoder} {b : Byte} {k : KeyReport}
    (h : .key k ∈ scanEvents c d b) : k.raw = d.rawBytes k.code := by
  unfold scanEvents at h
  split at h
  case h_4 => cases List.mem_singleton.1 h; rfl
  case h_3 => cases h
  all_goals split at h <;> simp at h

/-- An overflow event of a byte carries the whole buffer and the byte (R156). -/
theorem raw_of_overflow_mem_scanEvents {c : Cfg} {d : Decoder} {b : Byte} {raw : List Byte}
    (h : .overflow raw ∈ scanEvents c d b) : raw = d.pend.toList ++ [b] := by
  unfold scanEvents at h
  split at h
  case h_3 => cases h
  case h_4 => simp at h
  all_goals
    split at h
    · cases h
    · simpa using h

/-- The decoder's events of a step are those of a byte. -/
theorem mem_scanEvents_of_mem_step {s t : State} (hs : s.holds = false) (h : step s = .next t) {e : Event}
    (hd : e.ofDecoder = true) (he : e ∈ t.events) : ∃ b, e ∈ scanEvents s.cfg.raw s.dec b := by
  rcases step_events hs h with hev | ⟨l, hev⟩
  · simp [hev] at he
  · exact mem_scanEvents_of_mem_plainEvents hd (hev ▸ he)

/-- The raw bytes of a key event are `dec_plen` pending bytes and the terminal byte (R33, R161). -/
@[simp] theorem Decoder.rawBytes_length (d : Decoder) (b : Byte) : (d.rawBytes b).length = d.plen.val + 1 := by
  simp [Decoder.rawBytes]

@[simp] theorem Decoder.rawBytes_getLast? (d : Decoder) (b : Byte) : (d.rawBytes b).getLast? = some b := by
  simp [Decoder.rawBytes]

/-! ### The obligations -/

/-- Settles O8: the check is exactly admissibility, and each broken constraint contradicts one of its fields. -/
theorem badConfigurationsAreRefused : Obligations.BadConfigurationsAreRefused := by
  refine ⟨fun c hbad => configure_of_not_admissible fun hc => ?_, ?_, configure_valid⟩
  · rcases hbad with h | h | h | ⟨ns, a, hp, hne, hnone⟩ | h | h | h
    · exact absurd hc.startTimeout (by omega)
    · exact absurd hc.resyncTimeout (by omega)
    · exact absurd hc.pollDiv (by omega)
    · have hsome := hc.named ns a hp hne
      simp [hnone] at hsome
    · exact h hc.keyA
    · exact h hc.keyUp
    · exact h hc.unmapped
  · intro c hs hr hp hb he hk hn hA hU h2
    have hwf : c.wf = true := (Cfg.wf_iff_admissible c).2
      ⟨hs, hr, hp, hb, he, hk, fun ns a ha hne => Option.isSome_iff_exists.2 (hn ns a ha hne), hA, hU, h2⟩
    exact ⟨⟨c, hwf⟩, rfl, configure_valid ⟨c, hwf⟩⟩

/-- Settles O17: a step holds, or is the effect of the row its word always decodes to. -/
theorem stepNeverStops : Obligations.StepNeverStops := by
  intro s
  rcases step_cases s with h | ⟨i, sync, -, -, h⟩
  · exact ⟨_, h⟩
  · exact ⟨_, h⟩

/-- Settles O36: the decoder's events of a step come from a byte, so a key event carries at most 8 pending bytes and
its terminal byte, and an overflow event the full buffer and one byte. -/
theorem rawByteCounts : Obligations.RawByteCounts := by
  intro s t hs h
  refine ⟨fun k hk => ?_, fun raw hraw => ?_⟩
  · obtain ⟨b, hb⟩ := mem_scanEvents_of_mem_step hs h rfl hk
    rw [raw_of_key_mem_scanEvents hb, Decoder.rawBytes_length]
    exact ⟨by omega, by omega, Decoder.rawBytes_getLast? _ _⟩
  · obtain ⟨b, hb⟩ := mem_scanEvents_of_mem_step hs h rfl hraw
    simp [raw_of_overflow_mem_scanEvents hb]

end Sys2Proof.Machine
end

section
/-! PROOFS for spec/10_state.md: the invariant of the block, the poll tick and the input synchronizers, what no step
writes, and the output ports. -/

namespace Sys2Proof.Machine

/-! ### The counters -/

/-- What a rule may do to a counter with this limit (R26): clear it, leave it, or below the limit count one poll. -/
def CounterMoves (limit n m : Nat) : Prop := m = 0 ∨ m = n ∨ n ≠ limit - 1 ∧ m = n + 1

/-- A counter that moves so stays in range (R26). -/
theorem CounterMoves.le {limit n m : Nat} (h : CounterMoves limit n m) (hn : n ≤ limit - 1) : m ≤ limit - 1 := by
  rcases h with rfl | rfl | ⟨hne, rfl⟩ <;> omega

/-- A transition moves each of the three counters so: WSL counts `start_cnt`, RSY `resync_cnt` and GAP `gap_cnt`, each
below its limit, and every other rule clears a counter or leaves it (R23 to R26). -/
theorem counterMoves_sampNext (c : Cfg) (x : Sampler) (l : Line) :
    CounterMoves c.startTimeout x.startCnt (sampNext c x l).startCnt
      ∧ CounterMoves c.resyncTimeout x.resyncCnt (sampNext c x l).resyncCnt
      ∧ CounterMoves c.gap x.gapCnt (sampNext c x l).gapCnt := by
  unfold sampNext CounterMoves
  split <;> (repeat' split) <;> simp [*]

/-- A transition that leads to GAP starts there, or completes a frame with `P_GAP` ≠ 0 (R107). -/
theorem gap_of_sampNext_gap {c : Cfg} {x : Sampler} {l : Line} (h : (sampNext c x l).sampState = .gap) :
    x.sampState = .gap ∨ c.gap ≠ 0 := by
  cases hx : x.sampState with
  | gap => exact .inl rfl
  | wtl =>
    refine .inr fun hgap => ?_
    simp only [sampNext, hx, hgap, if_true] at h
    (repeat' split at h) <;> simp_all
  | _ =>
    simp only [sampNext, hx] at h
    (repeat' split at h) <;> simp_all

/-- A transition keeps the counters in range (R26). -/
theorem CountersInRange.transition {s t : State} {l : Line} (h : CountersInRange s) (hcfg : t.cfg = s.cfg)
    (hsamp : t.samp = sampNext s.cfg.raw s.samp l) : CountersInRange t := by
  obtain ⟨hstart, hresync, hgap, hentered⟩ := h
  obtain ⟨mstart, mresync, mgap⟩ := counterMoves_sampNext s.cfg.raw s.samp l
  constructor <;> rw [hsamp, hcfg]
  · exact mstart.le hstart
  · exact mresync.le hresync
  · exact mgap.le hgap
  · exact fun h => (gap_of_sampNext_gap h).elim hentered Nat.one_le_iff_ne_zero.2

/-! ### The fresh bits of `frm_data` -/

/-- A transition keeps the bits that the frame in progress has not sampled at 0: WSL clears them all, WBL writes the
one of its slot, WBH goes on to the next slot, and no other rule writes `frm_data` or enters a data slot (R101 to
R104). -/
theorem frameBitsFresh_sampNext {c : Cfg} {x : Sampler} {l : Line} (h : FrameBitsFresh x) :
    FrameBitsFresh (sampNext c x l) := by
  rcases x with ⟨st, idx, startCnt, resyncCnt, gapCnt, frmStart, frmData, frmParity⟩
  rcases l with ⟨clk, data⟩
  cases st with
  | wsl =>
    cases clk with
    | true => simp only [sampNext, if_true]; split <;> trivial
    | false => rfl
  | wsh =>
    cases clk with
    | true => intro j _; rw [show frmData = 0x00#8 from h]; exact BitVec.getLsbD_zero
    | false => exact h
  | wbl =>
    cases clk with
    | true => exact h
    | false =>
      intro j hj
      have hne : j.val ≠ idx.val := fun e => (Fin.ext e ▸ hj : j < j).false
      exact (writeBit_getLsbD ..).trans ((if_neg hne).trans (h j (le_of_lt hj)))
  | wbh =>
    cases clk with
    | true =>
      by_cases hidx : idx = 7
      · simp only [sampNext, if_true, hidx]; trivial
      · simp only [sampNext, if_true, hidx, if_false]
        intro j (hj : (nextBit idx).val ≤ j.val)
        rw [nextBit_val hidx] at hj
        exact h j hj
    | false => exact h
  | wtl => simp only [sampNext]; (repeat' split) <;> trivial
  | rsy => simp only [sampNext]; (repeat' split) <;> trivial
  | gap => simp only [sampNext]; split <;> trivial
  | wpl => cases clk <;> trivial
  | wph => cases clk <;> trivial
  | hlt => trivial

/-! ### The decoder -/

/-- A decoder without pending bytes and flags meets R34. -/
theorem DecoderInv.of_empty {d : Decoder} (hplen : d.plen = 0)
    (hflags : d.brk = false ∧ d.ext = false ∧ d.pause = false) : DecoderInv d := by
  have hnil : d.pending = [] := List.length_eq_zero_iff.1 (by rw [Decoder.pending_length, hplen]; rfl)
  exact ⟨by simp [hnil], by simp [hnil], by simp [hnil, hflags], fun _ => hflags⟩

/-- `dec_reset()` establishes R34 (R157). -/
theorem DecoderInv.cleared (d : Decoder) : DecoderInv d.cleared := .of_empty rfl ⟨rfl, rfl, rfl⟩

/-- Appending 0xE0 or 0xF0 keeps R34, whatever becomes of `dec_break` and `dec_ext`: the byte is the first one only in
an empty buffer, and then `dec_pause` is 0 (R151, R153, R155, R156). -/
theorem DecoderInv.append {d : Decoder} (h : DecoderInv d) (e : Decoder) (hpending : e.pending = d.pending)
    (hpause : e.pause = d.pause) {b : Byte} (hb : b = 0xE0#8 ∨ b = 0xF0#8) : DecoderInv (appendNext e b) := by
  by_cases hlt : e.plen.val < 8
  · have hnext : (appendNext e b).pending = d.pending ++ [b] := by rw [pending_appendNext hlt, hpending]
    have hpauseNext : (appendNext e b).pause = d.pause := by simp [appendNext, hlt, hpause]
    have hplen : (appendNext e b).plen ≠ 0 := by
      rw [appendNext, dif_pos hlt]
      exact Fin.ne_of_val_ne (Nat.succ_ne_zero _)
    obtain ⟨htail, hhead, hiff, -⟩ := h
    cases hd : d.pending with
    | nil =>
      rw [hd, List.nil_append] at hnext
      simp only [hd, List.head?_nil, reduceCtorEq, iff_false] at hiff
      refine ⟨by simp [hnext], ?_, ?_, fun h0 => absurd h0 hplen⟩
      · rcases hb with rfl | rfl <;> simp [hnext]
      · rcases hb with rfl | rfl <;> simp [hnext, hpauseNext, hiff]
    | cons a as =>
      rw [hd, List.cons_append] at hnext
      rw [hd] at htail hhead hiff
      refine ⟨?_, by simpa [hnext] using hhead, by simpa [hnext, hpauseNext] using hiff, fun h0 => absurd h0 hplen⟩
      simp only [hnext, List.tail_cons, List.mem_append, List.mem_singleton]
      rintro x (hx | rfl)
      · exact htail x hx
      · exact hb
  · rw [appendNext, dif_neg hlt]
    exact .cleared e

/-- An 0xE1 leaves the buffer [0xE1] with `dec_pause` = 1, which meets R34 (R152). -/
theorem DecoderInv.pausePrefix (d : Decoder) :
    DecoderInv { d with pend := d.pend.set 0 0xE1#8, plen := 1, pause := true } := by
  have hpending : ({ d with pend := d.pend.set 0 0xE1#8, plen := 1, pause := true } : Decoder).pending
      = [0xE1#8] := by
    simp [Decoder.pending, List.take_one, List.head?_eq_getElem?]
  exact ⟨by simp [hpending], by simp [hpending], by simp [hpending], fun h0 => absurd h0 (by simp)⟩

/-- A byte keeps R34 (R150 to R157). -/
theorem DecoderInv.scanNext {d : Decoder} (h : DecoderInv d) (b : Byte) : DecoderInv (scanNext d b) := by
  unfold Machine.scanNext
  split
  next hb => exact h.append { d with ext := true } rfl rfl (.inl (classifyByte_ext hb))
  next hb => exact classifyByte_pause hb ▸ .pausePrefix d
  next hb => exact h.append { d with brk := true } rfl rfl (.inr (classifyByte_brk hb))
  next => exact .cleared d

/-- The completion of a valid frame, in the terms of the sampler's fields and the sample (R107, R131). -/
theorem acceptsFrame_iff (x : Sampler) (l : Line) :
    acceptsFrame x l = true ↔ x.sampState = .wtl ∧ l.clk = false ∧ x.frmStart = false ∧ l.data = true := by
  simp [acceptsFrame, Sampler.frameWord, frameIsValid_frameWordOf, and_assoc]

/-- A transition keeps R34: it moves the decoder by a byte or not at all (R42). -/
theorem DecoderInv.decNext {d : Decoder} (h : DecoderInv d) (x : Sampler) (l : Line) :
    DecoderInv (decNext x d l) := by
  unfold Machine.decNext
  split
  · exact h.scanNext _
  · exact h

/-! ### The block after reset -/

/-- A block whose sampler, decoder and flops hold their reset values meets the invariant (R43). -/
theorem Inv.of_reset {s : State} (hsamp : s.samp = Sampler.reset) (hdec : s.dec = Decoder.reset)
    (hsync : s.sync = syncPreset s.cfg) : Inv s where
  counters := by constructor <;> simp [hsamp, Sampler.reset]
  decoder := hdec ▸ .of_empty rfl ⟨rfl, rfl, rfl⟩
  frame := hsamp ▸ trivial
  sync := by simp [SyncLength, hsync, syncPreset]

/-! ### The poll tick -/

/-- A step depends on the state through the stimulus it takes. -/
theorem step_congr {s t : State} (h : takeStimulus s = takeStimulus t) : step s = step t := by
  simp only [step_eq, h]

/-- A cycle without `tick_i` and `rst_i` only uses up its stimulus (R38). -/
theorem step_cycle_of_not_tick {s : State} {p : Pins} {rest : List Stimulus} (hrst : p.rst = false)
    (htick : p.tick = false) (h : s.inputs = .cycle p :: rest) : step s = .next { s with inputs := rest } := by
  simp [step_eq, takeStimulus, h, hrst, htick]

/-- Any number of such cycles only use up their stimuli (R38). -/
theorem run_cycles_of_not_tick (p : Pins) (hrst : p.rst = false) (htick : p.tick = false) (rest : List Stimulus)
    (n : Nat) {s : State} (h : s.inputs = List.replicate n (.cycle p) ++ rest) :
    run n s = .next { s with inputs := rest } := by
  induction n generalizing s with
  | zero => rw [run_zero, ← show s.inputs = rest from h]
  | succ n ih => rw [run_succ (step_cycle_of_not_tick hrst htick h), ih rfl]

/-- A run of one step is the step. -/
theorem run_one (s : State) : run 1 s = step s := by
  rcases step_cases s with h | ⟨_, _, -, -, h⟩ <;> rw [h, run_succ h, run_zero]

/-! ### The synchronizers -/

/-- The flops after a number of ticks hold the newest pin samples, newest first, and behind them what is left of their
first contents (R38). -/
theorem foldl_syncShift (pins flops : List Line) :
    pins.foldl syncShift flops = (pins.reverse ++ flops).take flops.length := by
  induction pins generalizing flops with
  | nil => simp
  | cons p ps ih =>
    have hshift : syncShift flops p = (p :: flops).take flops.length := by simp [syncShift, List.dropLast_eq_take]
    rw [List.foldl_cons, ih, hshift]
    simp [List.take_append, List.take_take]

/-- A tick samples what the pins showed as many ticks before as there are flops, or what the flops held at first
(R38). -/
theorem syncSample_foldl_syncShift (pins flops : List Line) (pin : Line) :
    some (syncSample (pins.foldl syncShift flops) pin) = (pin :: (pins.reverse ++ flops))[flops.length]? := by
  have htake : pin :: pins.foldl syncShift flops = (pin :: (pins.reverse ++ flops)).take (flops.length + 1) := by
    rw [foldl_syncShift, List.take_succ_cons]
  rw [syncSample, ← List.getLast?_eq_some_getLast, htake, List.getLast?_take]
  simp

/-- Once the flops are filled, a tick samples the pins of `P_SYNC_STAGES` ticks before (R38). -/
theorem syncSample_filled {flops later : List Line} {first : Line} (h : (first :: later).length = flops.length)
    (earlier : List Line) (pin : Line) :
    syncSample ((earlier ++ first :: later).foldl syncShift flops) pin = first := by
  apply Option.some_injective
  rw [syncSample_foldl_syncShift, ← h]
  simp

/-! ### The output ports -/

/-- The strobes are read from the events of the step (R39). -/
theorem strobes_eq {s : State} {evs : List Event} (h : s.events = evs) :
    s.strobes =
      [evs.contains .startTimeout, (evs.findSome? Event.asFrame).isSome, (evs.findSome? Event.asResync).isSome,
        (evs.findSome? Event.asKey).isSome, (evs.findSome? Event.asOverflow).isSome] := by
  subst h
  rfl

/-- With `ev_frame_o` high the payload ports show its report (R39). -/
theorem showsFrame_of_frameEvent {s : State} {f : FrameReport} (h : s.frameEvent = some f) : ShowsFrame s f := by
  constructor <;> simp [State.payload, h, frameByte]

/-- With raw bytes reported the payload ports show them, padded with 0x00 (R39). -/
theorem showsRaw_of_rawEvent {s : State} {raw : List Byte} (h : s.rawEvent = some raw) : ShowsRaw s raw where
  length hle := by
    have hlt : raw.length < 16 := by omega
    simp [State.payload, h, hlt]
  bytes j hj := by simp [State.payload, h, paddedRaw]

/-- With `ev_key_o` high the payload ports show its key event (R39). -/
theorem showsKey_of_keyEvent {s : State} {k : KeyReport} (h : s.keyEvent = some k) : ShowsKey s k where
  keyId := by simp [State.payload, h]
  code := by simp [State.payload, h]
  release := by cases hd : k.direction <;> simp [State.payload, h, hd, directionBit]
  extended := by simp [State.payload, h]
  raw := showsRaw_of_rawEvent (by simp [State.rawEvent, h])

/-- `dec_plen` fits its port (R33, R39). -/
theorem decPlenO_toNat (s : State) : s.decPlenO.toNat = s.dec.plen.val := by
  have hlt : s.dec.plen.val < 16 := by omega
  simp [State.decPlenO, hlt]

/-! ### The obligations -/

/-- Settles O49: the state after reset holds the reset values by definition. -/
theorem invariantHoldsAtReset : Obligations.InvariantHoldsAtReset := .of_reset rfl rfl rfl

/-- Settles O50: a cycle without a step writes no field of the invariant, a reset establishes it, a cancel writes only
`samp_state`, and a transition keeps each of its four parts. -/
theorem everyStepKeepsTheInvariant : Obligations.EveryStepKeepsTheInvariant := by
  rintro s t ⟨hcounters, hdecoder, hframe, hsync⟩ h
  have ⟨hstart, hresync, hgap, hentered⟩ := hcounters
  rcases step_inv h with ⟨-, -, rfl⟩ | ⟨i, sync, hlen, -, rfl⟩
  · exact ⟨⟨hstart, hresync, hgap, hentered⟩, hdecoder, hframe, hsync⟩
  · cases i.rst with
    | true => exact .of_reset rfl rfl rfl
    | false =>
      cases i.cancel with
      | true => exact ⟨⟨hstart, hresync, hgap, nofun⟩, hdecoder, trivial, hlen.trans hsync⟩
      | false =>
        exact ⟨hcounters.transition rfl rfl, hdecoder.decNext _ _, frameBitsFresh_sampNext hframe, hlen.trans hsync⟩

/-- Settles O14: with `tick_i` the cycle and the poll of the synchronized lines are the same stimulus to the block. -/
theorem stepIsTakenOnlyOnATick : Obligations.StepIsTakenOnlyOnATick := by
  intro s p rest hrst h
  refine ⟨fun htick => step_cycle_of_not_tick hrst htick h, fun htick => step_congr ?_⟩
  simp [takeStimulus, h, hrst, htick]

/-- Settles O15: the sample is the entry at `P_SYNC_STAGES` of the pins and the first contents, newest first. -/
theorem firstTicksAfterResetSampleIdle : Obligations.FirstTicksAfterResetSampleIdle := by
  refine ⟨fun n pins pin hlt => ?_, fun flops first pin later h => syncSample_filled h [] pin,
    fun flops earlier later first pin h => syncSample_filled h earlier pin, fun pins pin => ?_⟩
  · apply Option.some_injective
    rw [syncSample_foldl_syncShift, ← List.cons_append, List.getElem?_append_right (by simpa using hlt)]
    simp only [List.length_cons, List.length_reverse, List.length_replicate]
    exact List.getElem?_replicate_of_lt (by omega)
  · apply Option.some_injective
    rw [syncSample_foldl_syncShift]
    rfl

/-- Settles O16: the cycles before the last only use up their stimuli. -/
theorem aPollOfManyCyclesIsOneStep : Obligations.APollOfManyCyclesIsOneStep := by
  intro s p rest hrst h
  obtain ⟨-, -, hdiv⟩ := s.cfg.budgets
  rw [pollCycles, List.append_assoc] at h
  calc run s.cfg.raw.pollDiv s = run (s.cfg.raw.pollDiv - 1 + 1) s := by rw [Nat.sub_add_cancel hdiv]
    _ = run 1 _ := run_add (run_cycles_of_not_tick { p with tick := false } hrst rfl _ _ h) 1
    _ = _ := run_one _

/-- Settles O18: in each case of a step the configuration stays and one stimulus is taken. -/
theorem configurationIsNeverWritten : Obligations.ConfigurationIsNeverWritten := by
  intro s t h
  rcases step_cases s with h' | ⟨i, sync, -, -, h'⟩ <;> cases h'.symm.trans h
  · exact ⟨rfl, rfl⟩
  · obtain ⟨hcfg, hinputs, -⟩ :=
      effect_keeps (instrOf i s) (beginTick { s with inputs := s.inputs.tail, sync := sync })
    exact ⟨hcfg, hinputs⟩

/-- Settles O37: a cancel leaves the decoder, and a transition moves it when it completes a valid frame. -/
theorem onlyAValidFrameWritesTheDecoder : Obligations.OnlyAValidFrameWritesTheDecoder := by
  intro s t i rest hi hrst h
  cases hcancel : i.cancel with
  | true =>
    rw [step_poll_effect hi, instrOf_cancel hrst hcancel] at h
    cases h
    simp [effect]
  | false =>
    rw [step_plain hi hrst hcancel] at h
    cases h
    simp [decNext, acceptsFrame_iff, Sampler.frameWord]

/-- Settles O47: the ports of each event list. -/
theorem portsShowTheEventsOfTheStep : Obligations.PortsShowTheEventsOfTheStep := by
  intro s
  refine ⟨strobes_eq, strobes_eq, fun f h => ⟨strobes_eq h, ?_⟩, fun ok h => ⟨strobes_eq h, ?_⟩,
    fun f k h => ⟨strobes_eq h, ?_, ?_⟩, fun f raw h => ⟨strobes_eq h, ?_, ?_⟩, rfl, rfl, rfl, rfl,
    decPlenO_toNat s⟩
  · exact showsFrame_of_frameEvent (by rw [State.frameEvent, h]; rfl)
  · rw [State.payload, State.resyncEvent, h]; rfl
  · exact showsFrame_of_frameEvent (by rw [State.frameEvent, h]; rfl)
  · exact showsKey_of_keyEvent (by rw [State.keyEvent, h]; rfl)
  · exact showsFrame_of_frameEvent (by rw [State.frameEvent, h]; rfl)
  · exact showsRaw_of_rawEvent (by rw [State.rawEvent, State.keyEvent, State.overflowEvent, h]; rfl)

/-- Settles O9: by definition, and every flop is a copy of the idle line. -/
theorem resetStateHoldsTheSpecValues : Obligations.ResetStateHoldsTheSpecValues := by
  refine ⟨rfl, rfl, rfl, rfl, rfl, rfl, rfl, rfl, rfl, rfl, rfl, rfl, rfl, ⟨rfl, rfl, rfl, rfl, rfl⟩, rfl, ?_⟩
  intro l hl
  rw [List.eq_of_mem_replicate hl]
  exact ⟨rfl, rfl⟩

end Sys2Proof.Machine
end

section
/-! PROOFS for spec/20_memory.md: a ROM in canonical form is determined by what it reads. -/

namespace Sys2Proof.Machine

/-- The strict order of ROM cells by address, in which the canonical form lists them. -/
abbrev Rom.addrLt : Host.Cell → Host.Cell → Prop := InvImage (· < ·) Prod.fst

/-- In a rising list every cell lies below every later one. -/
theorem Rom.pairwise_of_rising {r : Rom} (h : Rom.rising none r = true) : r.Pairwise Rom.addrLt := by
  induction r with
  | nil => exact .nil
  | cons c r ih => exact .cons (Rom.rising_lt h) (ih (Rom.rising_none h))

/-- An address that does not read as an unlisted one is listed, with the word it reads as. -/
theorem Rom.mem_of_get_ne {r : Rom} {a : Nat} (h : Rom.get r a ≠ Rom.unlisted) : (a, Rom.get r a) ∈ r := by
  induction r with
  | nil => exact absurd rfl h
  | cons c r ih =>
    simp only [Rom.get] at h ⊢
    split
    · next hc => simp [← hc]
    · next hc =>
      rw [if_neg hc] at h
      exact List.mem_cons_of_mem c (ih h)

/-- The cells of a ROM in canonical form are exactly its non-zero words at their addresses (R50, R52). -/
theorem Rom.mem_iff_read {r : Rom} (h : Rom.wf r = true) {c : Host.Cell} :
    c ∈ r ↔ c.1 < 256 ∧ c.2 ≠ Rom.unlisted ∧ Rom.read r (BitVec.ofNat 8 c.1) = c.2 := by
  simp only [Rom.wf, Bool.and_eq_true, List.all_eq_true, decide_eq_true_eq, bne_iff_ne] at h
  obtain ⟨hrise, hcells⟩ := h
  have hread (hlt : c.1 < 256) : Rom.read r (BitVec.ofNat 8 c.1) = Rom.get r c.1 := by
    rw [Rom.read, BitVec.toNat_ofNat, Nat.mod_eq_of_lt hlt]
  constructor
  · intro hc
    obtain ⟨hlt, hne⟩ := hcells c hc
    exact ⟨hlt, hne, (hread hlt).trans (Rom.get_of_mem hrise hc)⟩
  · rintro ⟨hlt, hne, hc⟩
    have hget : Rom.get r c.1 = c.2 := (hread hlt).symm.trans hc
    have hmem := Rom.mem_of_get_ne (hget.trans_ne hne)
    rwa [hget] at hmem

/-- Settles O45: what a canonical ROM reads says which cells it has, and a rising list is determined by its cells. -/
theorem canonicalRomsThatReadTheSameAreEqual : Obligations.CanonicalRomsThatReadTheSameAreEqual := by
  intro r q hr hq hread
  have hcells (c : Host.Cell) : c ∈ r ↔ c ∈ q := by rw [Rom.mem_iff_read hr, Rom.mem_iff_read hq, hread]
  simp only [Rom.wf, Bool.and_eq_true] at hr hq
  exact (Rom.pairwise_of_rising hr.1).eq_of_mem_iff (Rom.pairwise_of_rising hq.1) hcells

end Sys2Proof.Machine
end

section
/-! PROOFS for spec/30_encoding.md: the decoder's classes and the word of a step, the names and causes of events, and
the reception of frames and bytes from their samples. -/

namespace Sys2Proof

open Machine

/-! ### Transition words -/

/-- Of the transition rows, the word of a state and a sample matches that of its instruction alone: their masked bits
tell the 40 pairs apart (R76). -/
theorem matchingRows_transitionWord (st : SampState) (l : Line) :
    transitionRows.filter (fun r => r.matchesCode (.transition (transitionWord st l)))
      = [(transitionInstr st l).row] := by
  rcases l with ⟨clk, data⟩
  cases st <;> cases clk <;> cases data <;> decide

/-- Exactly the codes 0xA to 0xF have no state (R74, R75). -/
theorem SampState.ofCode_eq_none_iff : ∀ c : StateCode, SampState.ofCode c = none ↔ 0xA ≤ c.toNat := by
  decide

/-- A transition word is refused exactly when its code has no state (R75). -/
theorem decodeTransition_eq_error_iff (t : TransitionWord) :
    decodeTransition t = .error .reservedStateCode ↔ SampState.ofCode (t.extractLsb' 2 4) = none := by
  unfold decodeTransition
  split <;> simp [*]

/-- Settles O3: the row of the pair's instruction is the only one its word matches. -/
theorem everyTransitionWordMatchesExactlyOneRow : Obligations.EveryTransitionWordMatchesExactlyOneRow := by
  intro st l
  refine ⟨⟨transitionWord_code st l, ?_, ?_⟩, _, decode_transitionWord st l, matchingRows_transitionWord st l⟩
  · exact transitionWord_clk st l
  · exact transitionWord_data st l

/-- Settles O4: a word is refused exactly when its code has no state, and those codes are 0xA to 0xF. -/
theorem reservedStateCodesAreRefused : Obligations.ReservedStateCodesAreRefused := fun t =>
  (decodeTransition_eq_error_iff t).trans (SampState.ofCode_eq_none_iff _)

/-! ### Frame words and scan bytes -/

/-- Settles O5: `classifyFrame` tests F[0], then F[10]. -/
theorem frameClassIsDecidedByStartAndStop : Obligations.FrameClassIsDecidedByStartAndStop := by
  intro f
  refine ⟨fun h0 h10 => ?_, fun h0 => ?_, fun h0 h10 => ?_⟩
  · rw [decode, classifyFrame, if_neg (Bool.eq_false_iff.1 h0), if_pos h10]; rfl
  · rw [decode, classifyFrame, if_pos h0]; rfl
  · rw [decode, classifyFrame, if_neg (Bool.eq_false_iff.1 h0), if_neg (Bool.eq_false_iff.1 h10)]; rfl

/-- A byte that is none of the three prefixes is TERMINAL (R77). -/
theorem classifyByte_of_ne {b : Byte} (he : b ≠ 0xE0#8) (hp : b ≠ 0xE1#8) (hb : b ≠ 0xF0#8) :
    classifyByte b = .terminal b := by
  rw [classifyByte, if_neg he, if_neg hp, if_neg hb]

/-- Settles O6: the prefixes by evaluation, and every other byte by elimination. -/
theorem scanByteClasses : Obligations.ScanByteClasses := by
  refine ⟨rfl, rfl, rfl, fun b he hp hb => ?_⟩
  rw [decode, classifyByte_of_ne he hp hb, ByteClass.instr]

end Sys2Proof

namespace Sys2Proof.Machine

/-! ### The word of a step -/

/-- A step whose stimulus is an input runs the instruction that the word of the input decodes to (R100). -/
theorem step_of_decode {s t : State} {i : Input} {instr : Instr} (ht : takeStimulus s = .tick i t)
    (hd : decode (fetchCode i t) = .ok instr) : step s = exec instr (beginTick t) := by
  simp only [step, ht, hd]

/-- Settles O13: a told poll is the input it gives, an untold one is the free input, and the word depends on nothing
that taking the stimulus writes. -/
theorem stepRunsTheDecodedInstruction : Obligations.StepRunsTheDecodedInstruction := by
  intro s i rest instr hin hd
  have htake : takeStimulus s = .tick i { s with inputs := rest } := by
    rcases hin with hpoll | ⟨hnil, rfl, rfl⟩
    · simp [takeStimulus, hpoll]
    · have hs : { s with inputs := [] } = s := by rw [← hnil]
      simp [takeStimulus, hnil, hs]
  exact step_of_decode htake hd

/-! ### The decoder's events -/

/-- A byte gives only events of the decoder (R150). -/
theorem ofDecoder_of_mem_scanEvents {c : Cfg} {d : Decoder} {b : Byte} {e : Event} (h : e ∈ scanEvents c d b) :
    e.ofDecoder = true := by
  unfold scanEvents at h
  split at h
  case h_3 => cases h
  case h_4 => cases List.mem_singleton.1 h; rfl
  all_goals
    split at h
    · cases h
    · cases List.mem_singleton.1 h; rfl

/-- A byte that gives a key event is a terminal byte; it clears the decoder, and the key id is its ROM word (R154,
R157, R158). -/
theorem terminal_of_key_mem_scanEvents {c : Cfg} {d : Decoder} {b : Byte} {k : KeyReport}
    (h : .key k ∈ scanEvents c d b) :
    classifyByte b = .terminal k.code ∧ scanNext d b = d.cleared ∧ k.keyId = c.lookup k.code k.extended := by
  unfold scanEvents scanNext at *
  split at h
  case h_3 => cases h
  case h_4 hb => cases List.mem_singleton.1 h; exact ⟨hb, by rw [hb], rfl⟩
  all_goals split at h <;> simp at h

/-- A byte overflows only a full buffer, and clears the decoder then (R156). -/
theorem full_of_overflow_mem_scanEvents {c : Cfg} {d : Decoder} {b : Byte} {raw : List Byte}
    (h : .overflow raw ∈ scanEvents c d b) : d.plen = 8 ∧ scanNext d b = d.cleared := by
  have hfull : ¬ d.plen.val < 8 → d.plen = 8 := by omega
  unfold scanEvents scanNext at *
  split at h
  case h_3 => cases h
  case h_4 => simp at h
  all_goals
    split at h
    · cases h
    · next hb hlt => exact ⟨hfull hlt, by simp [hb, appendNext, hlt]; rfl⟩

/-! ### What a step with events does -/

/-- What a step of the block can emit, with the sampler and the decoder it answers: nothing, or the events of a row of
WSL, WTL or RSY (R101, R107, R140, R209). -/
inductive Emission (c : Cfg) (x : Sampler) (d : Decoder) : List Event → Sampler → Decoder → Prop
  /-- no event -/
  | silent (y : Sampler) (e : Decoder) : Emission c x d [] y e
  /-- the start budget is used up (R101) -/
  | startTimeout : x.sampState = .wsl → Emission c x d [.startTimeout] { x with startCnt := 0 } d
  /-- a valid frame completes (R107) -/
  | accepted (f : FrameWord) (y : Sampler) : x.sampState = .wtl → frameIsValid f = true →
    Emission c x d (.frame (validate f) :: scanEvents c d (frameByte f)) y (scanNext d (frameByte f))
  /-- an invalid frame completes (R107) -/
  | rejected (f : FrameWord) : x.sampState = .wtl → frameIsValid f = false →
    Emission c x d [.frame (validate f)] { x with sampState := .rsy, resyncCnt := 0 } d
  /-- RESYNC ends (R140) -/
  | resync (ok : Bit) : x.sampState = .rsy →
    Emission c x d [.resync ok] { x with sampState := .wsl, startCnt := 0 } d

/-- A transition emits nothing, or what its row of WSL, WTL or RSY emits. -/
theorem emission_transition (c : Cfg) (x : Sampler) (d : Decoder) (l : Line) :
    Emission c x d (plainEvents c x d l) (sampNext c x l) (decNext x d l) := by
  rcases x with ⟨st, idx, startCnt, resyncCnt, gapCnt, frmStart, frmData, frmParity⟩
  rcases l with ⟨clk, data⟩
  cases st with
  | wsl =>
    cases clk with
    | false => exact .silent _ _
    | true =>
      by_cases hlast : startCnt = c.startTimeout - 1
      · simpa [plainEvents, sampNext, decNext, acceptsFrame, hlast] using .startTimeout rfl
      · simpa [plainEvents, hlast] using .silent _ _
  | wtl =>
    cases clk with
    | true => exact .silent _ _
    | false =>
      cases hvalid : frameIsValid
          (Sampler.frameWord ⟨.wtl, idx, startCnt, resyncCnt, gapCnt, frmStart, frmData, frmParity⟩ data) with
      | true => simpa [plainEvents, decNext, acceptsFrame, hvalid] using .accepted _ _ rfl hvalid
      | false => simpa [plainEvents, sampNext, decNext, acceptsFrame, hvalid] using .rejected _ rfl hvalid
  | rsy =>
    cases hidle : clk && data with
    | true => simpa [plainEvents, sampNext, decNext, acceptsFrame, hidle] using .resync true rfl
    | false =>
      by_cases hlast : resyncCnt = c.resyncTimeout - 1
      · simpa [plainEvents, sampNext, decNext, acceptsFrame, hidle, hlast] using .resync false rfl
      · simpa [plainEvents, hidle, hlast] using .silent _ _
  | _ => exact .silent _ _

/-- THE EVENTS OF A STEP, said once, with the sampler and the decoder that come with them. -/
theorem step_emission {s t : State} (hs : s.holds = false) (h : step s = .next t) :
    Emission s.cfg.raw s.samp s.dec t.events t.samp t.dec := by
  rcases step_inv h with ⟨-, hhold, -⟩ | ⟨i, sync, -, -, rfl⟩
  · simp [State.holds, hhold] at hs
  · cases i.rst with
    | true => exact .silent _ _
    | false =>
      cases i.cancel with
      | true => exact .silent _ _
      | false => exact emission_transition _ _ _ _

section Emission
variable {c : Cfg} {x y : Sampler} {d e : Decoder} {evs : List Event} (h : Emission c x d evs y e)
include h

/-- The start timeout comes in WSL and only clears the budget (R101, R201). -/
theorem Emission.of_startTimeout (hm : .startTimeout ∈ evs) :
    x.sampState = .wsl ∧ y = { x with startCnt := 0 } ∧ e = d := by
  cases h with
  | startTimeout hx => exact ⟨hx, rfl, rfl⟩
  | accepted f y hx hf => cases ofDecoder_of_mem_scanEvents ((List.mem_cons.1 hm).resolve_left nofun)
  | _ => simp at hm

/-- A frame report comes in WTL and is the validator's; an invalid frame leads to RSY and leaves the decoder (R107,
R202). -/
theorem Emission.of_frame {r : FrameReport} (hm : .frame r ∈ evs) :
    x.sampState = .wtl ∧ r.valid = frameIsValid r.word
      ∧ (r.valid = false → y = { x with sampState := .rsy, resyncCnt := 0 } ∧ e = d) := by
  cases h with
  | accepted f y hx hf =>
    rcases List.mem_cons.1 hm with hr | hr
    · cases hr; exact ⟨hx, rfl, fun hinvalid => absurd (hf.symm.trans hinvalid) nofun⟩
    · cases ofDecoder_of_mem_scanEvents hr
  | rejected f hx hf => cases List.mem_singleton.1 hm; exact ⟨hx, rfl, fun _ => ⟨rfl, rfl⟩⟩
  | _ => simp at hm

/-- A resync report comes in RSY and leads to WSL with a fresh budget (R140, R203). -/
theorem Emission.of_resync {ok : Bit} (hm : .resync ok ∈ evs) :
    x.sampState = .rsy ∧ y = { x with sampState := .wsl, startCnt := 0 } ∧ e = d := by
  cases h with
  | resync ok hx => exact ⟨hx, rfl, rfl⟩
  | accepted f y hx hf => cases ofDecoder_of_mem_scanEvents ((List.mem_cons.1 hm).resolve_left nofun)
  | _ => simp at hm

/-- An event of the decoder is one of a byte, and the decoder moves by that byte (R107, R150). -/
theorem Emission.of_ofDecoder {ev : Event} (hd : ev.ofDecoder = true) (hm : ev ∈ evs) :
    ∃ b, ev ∈ scanEvents c d b ∧ e = scanNext d b := by
  cases h with
  | accepted f y hx hf =>
    refine ⟨_, (List.mem_cons.1 hm).resolve_left ?_, rfl⟩
    rintro rfl
    cases hd
  | silent => cases hm
  | _ => cases List.mem_singleton.1 hm; cases hd

end Emission

/-! ### Names and causes of events -/

/-- In a valid configuration the ROM word of a terminal byte is 0x00 or has a name (R80). -/
theorem lookup_named (v : Cfg.Valid) {b : Byte} (hb : isPrefix b = false) (ext : Bit)
    (hne : v.raw.lookup b ext ≠ 0x00#8) : (v.raw.nameOf (v.raw.lookup b ext)).isSome = true :=
  ((Cfg.wf_iff_admissible _).1 v.ok).named _ b hb hne

/-- A TERMINAL byte is none of the three prefixes (R77). -/
theorem not_isPrefix_of_terminal {b c : Byte} (h : classifyByte b = .terminal c) : isPrefix c = false := by
  obtain ⟨rfl, hext, hpause, hbrk⟩ := classifyByte_terminal h
  simp [isPrefix, hext, hpause, hbrk]

/-- Settles O44: the key id is the ROM word of a terminal byte, which is 0x00 or named in a valid configuration. -/
theorem everyKeyEventHasAName : Obligations.EveryKeyEventHasAName := by
  intro s t k hs h hk
  obtain ⟨b, hb⟩ := mem_scanEvents_of_mem_step hs h rfl hk
  obtain ⟨hterminal, -, hid⟩ := terminal_of_key_mem_scanEvents hb
  have hprefix := not_isPrefix_of_terminal hterminal
  by_cases hzero : k.keyId = 0x00#8
  · exact ⟨fallback k.extended k.code, by simp [KeyReport.keyName, Cfg.keyName, hzero], fun _ => rfl,
      fun hne => absurd hzero hne⟩
  · obtain ⟨name, hname⟩ := Option.isSome_iff_exists.1 (lookup_named s.cfg hprefix k.extended (hid ▸ hzero))
    rw [← hid] at hname
    exact ⟨name, by simp [KeyReport.keyName, Cfg.keyName, hzero, hname], fun h0 => absurd h0 hzero, fun _ => hname⟩

/-- Settles O48: each kind of event comes from one row, which gives the states and the cause. -/
theorem errorTaxonomyOfEachStep : Obligations.ErrorTaxonomyOfEachStep := by
  refine ⟨⟨rfl, fun _ => rfl, fun _ => rfl, fun _ => rfl, fun _ => rfl⟩, fun s t hs h => ?_⟩
  have hem := step_emission hs h
  refine ⟨fun hm => ?_, fun f hm => ?_, fun ok hm => ?_, fun k hm => ?_, fun raw hm => ?_⟩
  · obtain ⟨hwsl, hsamp, hdec⟩ := hem.of_startTimeout hm
    exact ⟨rfl, hwsl, by rw [hsamp, hwsl], by rw [hsamp], hdec⟩
  · obtain ⟨hwtl, hvalid, hinvalid⟩ := hem.of_frame hm
    refine ⟨hwtl, fun h0 h10 => ?_, fun hbad => ?_⟩
    · simp only [Event.cause, hvalid, frameIsValid, h0, h10, Bool.not_false, Bool.and_self, if_true]
    · have hfalse : f.valid = false := by
        rw [hvalid, frameIsValid]
        rcases hbad with h0 | h10
        · simp only [h0, Bool.not_true, Bool.false_and]
        · simp only [h10, Bool.and_false]
      obtain ⟨hsamp, hdec⟩ := hinvalid hfalse
      exact ⟨by rw [Event.cause, hfalse]; rfl, by rw [hsamp], by rw [hsamp], hdec⟩
  · obtain ⟨hrsy, hsamp, hdec⟩ := hem.of_resync hm
    exact ⟨hrsy, by rw [hsamp], by rw [hsamp], hdec, rfl⟩
  · obtain ⟨b, hb, hdec⟩ := hem.of_ofDecoder rfl hm
    obtain ⟨-, hcleared, -⟩ := terminal_of_key_mem_scanEvents hb
    exact ⟨by simp [Event.cause], by simp [Event.cause], hdec.trans hcleared⟩
  · obtain ⟨b, hb, hdec⟩ := hem.of_ofDecoder rfl hm
    obtain ⟨hfull, hcleared⟩ := full_of_overflow_mem_scanEvents hb
    exact ⟨rfl, hfull, hdec.trans hcleared⟩

end Sys2Proof.Machine
end

section
/-! PROOFS for the serial side of spec/30_encoding.md R89 to R92: the samples of a frame and of bytes, received one
poll at a time. -/

namespace Sys2Proof.Machine

/-! ### Runs of polls -/

/-- The observation of a run in two parts. -/
theorem trace_add {s t : State} {m : Nat} (h : run m s = .next t) (n : Nat) :
    trace (m + n) s = trace m s ++ trace n t := by
  induction m generalizing s with
  | zero => cases h; rw [Nat.zero_add]; rfl
  | succ m ih =>
    obtain ⟨u, hs⟩ := stepNeverStops s
    rw [run_succ hs] at h
    rw [Nat.succ_add, trace_succ hs, trace_succ hs, ih h]
    split <;> rfl

/-- One poll without reset and cancel, as a run: the three functions of a transition and the events observed. -/
theorem run_one_plain {s : State} {i : Input} {rest : List Stimulus} (hin : s.inputs = .poll i :: rest)
    (hi : Plain i) :
    ∃ t, run 1 s = .next t ∧ t.cfg = s.cfg ∧ t.inputs = rest
      ∧ t.samp = sampNext s.cfg.raw s.samp ⟨i.clk, i.data⟩ ∧ t.dec = decNext s.samp s.dec ⟨i.clk, i.data⟩
      ∧ t.events = plainEvents s.cfg.raw s.samp s.dec ⟨i.clk, i.data⟩ ∧ trace 1 s = [t.events] := by
  obtain ⟨hrst, hcancel⟩ := hi
  have hstep := step_plain hin hrst hcancel
  refine ⟨_, (run_one s).trans hstep, rfl, rfl, rfl, rfl, rfl, ?_⟩
  rw [trace_succ hstep, holds_poll hin]
  rfl

/-- The samples `is` take the sampler from `x` to `y` without an event, whatever the decoder holds. -/
inductive SilentPath (c : Cfg) : Sampler → List Input → Sampler → Prop
  | nil (x : Sampler) : SilentPath c x [] x
  | cons {x y : Sampler} {i : Input} {is : List Input} : Plain i →
    (∀ d, plainEvents c x d ⟨i.clk, i.data⟩ = []) → SilentPath c (sampNext c x ⟨i.clk, i.data⟩) is y →
    SilentPath c x (i :: is) y

/-- A silent path in two parts. -/
theorem SilentPath.append {c : Cfg} {x y z : Sampler} {is js : List Input} (h : SilentPath c x is y)
    (h' : SilentPath c y js z) : SilentPath c x (is ++ js) z := by
  induction h with
  | nil => exact h'
  | cons hi hev _ ih => exact .cons hi hev (ih h')

/-- A transition without events leaves the decoder: a frame that completes is reported (R42, R107). -/
theorem decNext_of_plainEvents_nil {c : Cfg} {x : Sampler} {d : Decoder} {l : Line}
    (h : plainEvents c x d l = []) : decNext x d l = d := by
  rw [decNext, if_neg]
  intro haccepts
  obtain ⟨hwtl, hclk, -, -⟩ := (acceptsFrame_iff x l).1 haccepts
  simp [plainEvents, hwtl, hclk] at h

/-- A silent path, run by the block: the sampler follows it, and the decoder and the observation show nothing. -/
theorem SilentPath.run {c : Cfg} {x y : Sampler} {is : List Input} (h : SilentPath c x is y) {s : State}
    {rest : List Stimulus} (hc : s.cfg.raw = c) (hx : s.samp = x) (hin : s.inputs = polls is ++ rest) :
    ∃ t, run is.length s = .next t ∧ t.cfg = s.cfg ∧ t.inputs = rest ∧ t.samp = y ∧ t.dec = s.dec
      ∧ trace is.length s = List.replicate is.length [] := by
  induction h generalizing s with
  | nil => exact ⟨s, rfl, rfl, hin, hx, rfl, rfl⟩
  | @cons x y i is hi hev _ ih =>
    subst hc hx
    obtain ⟨t, hrun, hcfg, hinputs, hsamp, hdec, hevents, htrace⟩ := run_one_plain hin hi
    obtain ⟨u, hrun', hcfg', hinputs', hsamp', hdec', htrace'⟩ := ih (by rw [hcfg]) hsamp hinputs
    rw [decNext_of_plainEvents_nil (hev _)] at hdec
    rw [hev] at hevents
    rw [List.length_cons, Nat.add_comm]
    refine ⟨u, (run_add hrun _).trans hrun', hcfg'.trans hcfg, hinputs', hsamp', hdec'.trans hdec, ?_⟩
    rw [trace_add hrun, htrace, htrace', hevents, Nat.add_comm, List.replicate_succ]
    rfl

/-! ### The samples of a frame -/

theorem plain_sample (clk data : Bit) : Plain (sample clk data) := ⟨rfl, rfl⟩

/-- The start slot: WSL samples the start bit and begins the frame, WSH goes on to data slot 0 (R101, R102). -/
theorem silentPath_startSlot (c : Cfg) {x : Sampler} (hx : x.sampState = .wsl) (b : Bit) :
    SilentPath c x (slot b)
      { x with frmStart := b, frmData := 0x00#8, startCnt := 0, bitIdx := 0, sampState := .wbl } := by
  rcases x with ⟨_, idx, startCnt, resyncCnt, gapCnt, frmStart, frmData, frmParity⟩
  cases hx
  exact .cons (plain_sample _ _) (fun _ => rfl) (.cons (plain_sample _ _) (fun _ => rfl) (.nil _))

/-- A data slot: WBL writes its bit, WBH goes on to the next data slot or to the parity slot (R103, R104). -/
theorem silentPath_dataSlot (c : Cfg) {x : Sampler} (hx : x.sampState = .wbl) (b : Bit) :
    SilentPath c x (slot b)
      (if x.bitIdx = 7 then { x with frmData := writeBit x.frmData x.bitIdx b, sampState := .wpl }
      else { x with frmData := writeBit x.frmData x.bitIdx b, bitIdx := nextBit x.bitIdx, sampState := .wbl }) := by
  rcases x with ⟨_, idx, startCnt, resyncCnt, gapCnt, frmStart, frmData, frmParity⟩
  cases hx
  exact .cons (plain_sample _ _) (fun _ => rfl) (.cons (plain_sample _ _) (fun _ => rfl) (.nil _))

/-- The parity slot: WPL samples the parity bit, WPH goes on to the stop slot (R105, R106). -/
theorem silentPath_paritySlot (c : Cfg) {x : Sampler} (hx : x.sampState = .wpl) (b : Bit) :
    SilentPath c x (slot b) { x with frmParity := b, sampState := .wtl } := by
  rcases x with ⟨_, idx, startCnt, resyncCnt, gapCnt, frmStart, frmData, frmParity⟩
  cases hx
  exact .cons (plain_sample _ _) (fun _ => rfl) (.cons (plain_sample _ _) (fun _ => rfl) (.nil _))

/-- Writing the bit of its slot extends by one the bits of `frm_data` that are those of the byte (R103). -/
theorem writeBit_agrees {w v : Byte} {i : Fin 8} (h : ∀ j < i.val, w.getLsbD j = v.getLsbD j) :
    ∀ j < i.val + 1, (writeBit w i (v.getLsbD i.val)).getLsbD j = v.getLsbD j := by
  intro j hj
  rw [writeBit_getLsbD]
  split
  · next hji => rw [hji]
  · next hji => exact h j (by omega)

/-- From data slot `i` on, with the bits below it received, the remaining data slots complete the byte (R57, R104). -/
theorem silentPath_dataSlots_from (c : Cfg) (v : Byte) (n : Nat) {x : Sampler} (hx : x.sampState = .wbl)
    (hn : x.bitIdx.val + n = 7) (hbits : ∀ j < x.bitIdx.val, x.frmData.getLsbD j = v.getLsbD j) :
    SilentPath c x ((List.range' x.bitIdx.val (n + 1)).flatMap fun i => slot (v.getLsbD i))
      { x with frmData := v, bitIdx := 7, sampState := .wpl } := by
  induction n generalizing x with
  | zero =>
    have hidx : x.bitIdx = 7 := Fin.ext hn
    have hdata : writeBit x.frmData x.bitIdx (v.getLsbD x.bitIdx.val) = v :=
      BitVec.eq_of_getLsbD_eq fun j hj => writeBit_agrees hbits j (by omega)
    have hslot := silentPath_dataSlot c hx (v.getLsbD x.bitIdx.val)
    rw [if_pos hidx, hdata] at hslot
    simpa [← hidx] using hslot
  | succ n ih =>
    have hidx : x.bitIdx ≠ 7 := fun h => by rw [h] at hn; simp at hn
    have hnext := nextBit_val hidx
    have hslot := silentPath_dataSlot c hx (v.getLsbD x.bitIdx.val)
    have hbits' := writeBit_agrees hbits
    rw [if_neg hidx] at hslot
    rw [← hnext] at hbits'
    rw [List.range'_succ, List.flatMap_cons, ← hnext]
    exact hslot.append (ih rfl (by simp only [hnext]; omega) hbits')

/-- The eight data slots of a byte put it into `frm_data` (R90, R103, R104). -/
theorem silentPath_dataSlots (c : Cfg) (v : Byte) {x : Sampler} (hx : x.sampState = .wbl) (hidx : x.bitIdx = 0) :
    SilentPath c x (dataSlots v) { x with frmData := v, bitIdx := 7, sampState := .wpl } := by
  have h := silentPath_dataSlots_from c v 7 hx (by simp [hidx]) (by simp [hidx])
  rwa [hidx] at h

/-- The sampler about to sample the stop bit of a frame. -/
def Sampler.atStop (x : Sampler) (start : Bit) (v : Byte) (par : Bit) : Sampler :=
  { x with sampState := .wtl, bitIdx := 7, startCnt := 0, frmStart := start, frmData := v, frmParity := par }

/-- The 20 samples of a frame before its stop sample: no event comes before the stop bit (R90, R115). -/
theorem silentPath_untilStop (c : Cfg) {x : Sampler} (hx : x.sampState = .wsl) (v : Byte) (start par : Bit) :
    SilentPath c x (slot start ++ dataSlots v ++ slot par) (x.atStop start v par) :=
  ((silentPath_startSlot c hx start).append (silentPath_dataSlots c v rfl rfl)).append
    (silentPath_paritySlot c rfl par)

/-- THE 21 SAMPLES OF A FRAME, received: 20 silent steps, and the row of WTL at the 21st (R90, R107). -/
theorem run_frameSamples {s : State} {v : Byte} {start par stop : Bit} {rest : List Stimulus}
    (hs : s.samp.sampState = .wsl) (hin : s.inputs = polls (frameSamples v start par stop) ++ rest) :
    ∃ t, run 21 s = .next t ∧ t.cfg = s.cfg ∧ t.inputs = rest
      ∧ t.samp = sampNext s.cfg.raw (s.samp.atStop start v par) ⟨false, stop⟩
      ∧ t.dec = decNext (s.samp.atStop start v par) s.dec ⟨false, stop⟩
      ∧ t.events = plainEvents s.cfg.raw (s.samp.atStop start v par) s.dec ⟨false, stop⟩
      ∧ trace 21 s = List.replicate 20 [] ++ [t.events] := by
  rw [frameSamples, polls_append, List.append_assoc] at hin
  have hpath := silentPath_untilStop s.cfg.raw hs v start par
  obtain ⟨t, hrun, hcfg, hinputs, hsamp, hdec, htrace⟩ := hpath.run rfl rfl hin
  obtain ⟨u, hrun', hcfg', hinputs', hsamp', hdec', hevents', htrace'⟩ :=
    run_one_plain hinputs (plain_sample false stop)
  rw [hcfg, hsamp] at hsamp'
  rw [hsamp, hdec] at hdec'
  rw [hcfg, hsamp, hdec] at hevents'
  refine ⟨u, (run_add hrun 1).trans hrun', hcfg'.trans hcfg, hinputs', hsamp', hdec', hevents', ?_⟩
  exact (trace_add hrun 1).trans (by rw [htrace, htrace']; rfl)

/-- The frame word of the stop sample (R72). -/
@[simp] theorem Sampler.frameWord_atStop (x : Sampler) (start : Bit) (v : Byte) (par stop : Bit) :
    (x.atStop start v par).frameWord stop = frameWordOf start v par stop := rfl

section StopSample
variable (c : Cfg) (x : Sampler) (d : Decoder) (start : Bit) (v : Byte) (par stop : Bit)

/-- The stop sample of a valid frame gives its byte to the decoder (R107, R135). -/
theorem decNext_atStop :
    decNext (x.atStop start v par) d ⟨false, stop⟩ = if start = false ∧ stop = true then scanNext d v else d := by
  simp [decNext, acceptsFrame_iff, Sampler.atStop, Sampler.frameWord]

/-- The stop sample reports the frame, and after a valid one the events of its byte (R107, R135). -/
theorem plainEvents_atStop :
    plainEvents c (x.atStop start v par) d ⟨false, stop⟩ =
      .frame ⟨frameWordOf start v par stop, v, !start && stop, parityIsOdd (frameWordOf start v par stop)⟩ ::
        if start = false ∧ stop = true then scanEvents c d v else [] := by
  simp [plainEvents, Sampler.atStop, Sampler.frameWord, validate, frameIsValid_frameWordOf]

/-- The stop sample leads to WSL or GAP after a valid frame, and to RSY after an invalid one (R107). -/
theorem sampNext_atStop :
    sampNext c (x.atStop start v par) ⟨false, stop⟩ =
      if start = false ∧ stop = true then
        if c.gap = 0 then { x.atStop start v par with sampState := .wsl, startCnt := 0 }
        else { x.atStop start v par with sampState := .gap, gapCnt := 0 }
      else { x.atStop start v par with sampState := .rsy, resyncCnt := 0 } := by
  simp [sampNext, Sampler.atStop, Sampler.frameWord, frameIsValid_frameWordOf]

end StopSample

/-- Settles O57: the frame is silent until its stop sample, which does what the row of WTL says. -/
theorem frameIsReceivedExactly : Obligations.FrameIsReceivedExactly := by
  intro s v start par stop rest hs hin
  obtain ⟨t, hrun, -, hinputs, hsamp, hdec, hevents, htrace⟩ := run_frameSamples hs hin
  rw [sampNext_atStop] at hsamp
  rw [decNext_atStop] at hdec
  rw [plainEvents_atStop] at hevents
  refine ⟨t, hrun, hinputs, htrace, ?_⟩
  split
  · next hvalid =>
    rw [if_pos hvalid] at hsamp hdec hevents
    obtain ⟨rfl, rfl⟩ := hvalid
    refine ⟨by rw [hdec, consume_dec], ?_, by rw [hevents, consume_events]; rfl⟩
    rw [hsamp]
    split <;> rfl
  · next hinvalid =>
    rw [if_neg hinvalid] at hsamp hdec hevents
    have hbit : (!start && stop) = false := by simpa using hinvalid
    exact ⟨hdec, by rw [hsamp], by rw [hevents, hbit]⟩

/-! ### The samples of bytes -/

/-- The events of a sequence of bytes given to a decoder. -/
def scanEventsAll (c : Cfg) : Decoder → List Byte → List Event
  | _, [] => []
  | d, b :: bs => scanEvents c d b ++ scanEventsAll c (scanNext d b) bs

/-- A sequence of bytes moves the decoder byte by byte (R150). -/
theorem consumeAll_dec (bs : List Byte) (s : State) : (consumeAll bs s).dec = bs.foldl scanNext s.dec := by
  induction bs generalizing s with
  | nil => rfl
  | cons b bs ih => exact (ih _).trans (by rw [consume_dec]; rfl)

/-- A sequence of bytes appends the events of `scanEventsAll` (R150). -/
theorem consumeAll_events (bs : List Byte) (s : State) :
    (consumeAll bs s).events = s.events ++ scanEventsAll s.cfg.raw s.dec bs := by
  induction bs generalizing s with
  | nil => exact (List.append_nil _).symm
  | cons b bs ih =>
    calc (consumeAll (b :: bs) s).events = (consumeAll bs (consume b s)).events := rfl
      _ = _ := by rw [ih, consume_events, consume_cfg, consume_dec, List.append_assoc]; rfl

/-- The next poll finds the sampler in the start wait, or ends its gap (R101, R108). -/
def WaitsOrEndsGap (c : Cfg) (x : Sampler) : Prop :=
  x.sampState = .wsl ∨ x.sampState = .gap ∧ x.gapCnt = c.gap - 1

/-- The stop sample of a valid frame leads there when `P_GAP` is at most 1 (R107). -/
theorem waitsOrEndsGap_atStop {c : Cfg} (hgap : c.gap ≤ 1) (x : Sampler) (v : Byte) (par : Bit) :
    WaitsOrEndsGap c (sampNext c (x.atStop false v par) ⟨false, true⟩) := by
  rw [sampNext_atStop, if_pos ⟨rfl, rfl⟩]
  split
  · exact .inl rfl
  · have hlast : 0 = c.gap - 1 := by omega
    exact .inr ⟨rfl, hlast⟩

/-- From there an idle sample leads to the start wait, leaves the decoder, and emits no event of the decoder; it may
use up the start budget (R101, R108). -/
theorem WaitsOrEndsGap.idle {c : Cfg} {x : Sampler} (h : WaitsOrEndsGap c x) (d : Decoder) :
    (sampNext c x ⟨true, true⟩).sampState = .wsl ∧ decNext x d ⟨true, true⟩ = d
      ∧ (plainEvents c x d ⟨true, true⟩).filter Event.ofDecoder = [] := by
  rcases h with hwsl | ⟨hgap, hlast⟩
  · refine ⟨?_, by simp [decNext, acceptsFrame, hwsl], ?_⟩
    · simp only [sampNext, hwsl, if_true, apply_ite Sampler.sampState, ite_self]
    · simp only [plainEvents, hwsl]; split <;> rfl
  · exact ⟨by simp only [sampNext, hgap, if_pos hlast], by simp [decNext, acceptsFrame, hgap],
      by simp only [plainEvents, hgap, List.filter_nil]⟩

/-- The events of a byte are all events of the decoder (R150). -/
theorem filter_ofDecoder_scanEvents (c : Cfg) (d : Decoder) (b : Byte) :
    (scanEvents c d b).filter Event.ofDecoder = scanEvents c d b :=
  List.filter_eq_self.2 fun _ => ofDecoder_of_mem_scanEvents

/-- THE 22 SAMPLES OF A BYTE, received with `P_GAP` at most 1: from the start wait to the start wait, the decoder and
its events move as the byte says (R91, R150). -/
theorem run_byteSamples {s : State} {b : Byte} {rest : List Stimulus} (hs : s.samp.sampState = .wsl)
    (hgap : s.cfg.raw.gap ≤ 1) (hin : s.inputs = polls (byteSamples b) ++ rest) :
    ∃ t, run 22 s = .next t ∧ t.cfg = s.cfg ∧ t.inputs = rest ∧ t.samp.sampState = .wsl
      ∧ t.dec = scanNext s.dec b
      ∧ (trace 22 s).flatten.filter Event.ofDecoder = scanEvents s.cfg.raw s.dec b := by
  rw [byteSamples, polls_append, List.append_assoc] at hin
  obtain ⟨t, hrun, hcfg, hinputs, hsamp, hdec, hevents, htrace⟩ := run_frameSamples hs hin
  obtain ⟨u, hrun', hcfg', hinputs', hsamp', hdec', hevents', htrace'⟩ :=
    run_one_plain hinputs (plain_sample true true)
  obtain ⟨hwsl, hidleDec, hidleEvents⟩ := (waitsOrEndsGap_atStop hgap s.samp b (oddParityBit b)).idle t.dec
  rw [hcfg, hsamp] at hsamp' hevents'
  rw [hsamp] at hdec'
  rw [decNext_atStop, if_pos ⟨rfl, rfl⟩] at hdec
  rw [plainEvents_atStop, if_pos ⟨rfl, rfl⟩] at hevents
  refine ⟨u, (run_add hrun 1).trans hrun', hcfg'.trans hcfg, hinputs', hsamp' ▸ hwsl,
    hdec'.trans (hidleDec.trans hdec), ?_⟩
  have hflat : (trace 22 s).flatten = t.events ++ u.events := by rw [trace_add hrun 1, htrace, htrace']; simp
  have hnone : u.events.filter Event.ofDecoder = [] := by rw [hevents']; exact hidleEvents
  rw [hflat, List.filter_append, hnone, List.append_nil, hevents]
  exact filter_ofDecoder_scanEvents ..

/-- Settles O59: byte by byte, each from the start wait to the start wait. -/
theorem serialReceptionRefinesByteDecoding : Obligations.SerialReceptionRefinesByteDecoding := by
  intro s bs rest hs hgap hin
  rw [consumeAll_dec, consumeAll_events, List.nil_append]
  rw [Stmt.inputs] at hin
  induction bs generalizing s with
  | nil => exact ⟨s, rfl, hin, hs, rfl, rfl⟩
  | cons b bs ih =>
    rw [List.flatMap_cons, polls_append, List.append_assoc] at hin
    obtain ⟨t, hrun, hcfg, hinputs, hwsl, hdec, htrace⟩ := run_byteSamples hs hgap hin
    obtain ⟨u, hrun', hinputs', hwsl', hdec', htrace'⟩ := ih t hwsl (hcfg ▸ hgap) hinputs
    rw [hdec] at hdec' htrace'
    rw [hcfg] at htrace'
    have hlen : 22 * (b :: bs).length = 22 + 22 * bs.length := by rw [List.length_cons]; omega
    rw [hlen]
    refine ⟨u, (run_add hrun _).trans hrun', hinputs', hwsl', hdec', ?_⟩
    rw [trace_add hrun, List.flatten_append, List.filter_append, htrace, htrace']
    rfl

end Sys2Proof.Machine
end

section
/-! PROOFS for spec/40_bit_sampler.md: the rows of the Bit Sampler, its independence of the decoder, and what it does
over many polls: the unbounded waits, the start budget, the gap, and the steps before a frame completes. -/

namespace Sys2Proof.Machine

/-! ### Rule by rule -/

/-- Settles O19: the budget is tested before it is counted. -/
theorem startWaitSamplesCountsOrTimesOut : Obligations.StartWaitSamplesCountsOrTimesOut := by
  refine ⟨fun _ _ => rfl, fun d s hlast => ?_, fun d s hcount => ?_⟩
  · rw [exec_eq, effect, if_pos hlast]; rfl
  · rw [exec_eq, effect, if_neg hcount]; rfl

/-- Settles O20: both rows are so by definition. -/
theorem startHighWaitBeginsDataSlotZero : Obligations.StartHighWaitBeginsDataSlotZero := fun _ _ => ⟨rfl, rfl⟩

/-- Settles O21: the byte written is `writeBit` of the slot. -/
theorem dataSlotWritesOneBit : Obligations.DataSlotWritesOneBit := fun _ _ =>
  ⟨⟨_, rfl, (writeBit_getLsbD ..).trans (if_pos rfl), fun _ hj => (writeBit_getLsbD ..).trans (if_neg hj)⟩, rfl⟩

/-- Settles O22: below slot 7 the next slot is one more. -/
theorem dataSlotEndAdvancesOrGoesToParity : Obligations.DataSlotEndAdvancesOrGoesToParity := by
  refine fun d s => ⟨fun j hlt hj => ?_, fun hidx => ?_, rfl⟩
  · have hne : s.samp.bitIdx ≠ 7 := fun h => by rw [h] at hlt; exact absurd hlt (by decide)
    have hnext : nextBit s.samp.bitIdx = j := Fin.ext ((nextBit_val hne).trans hj.symm)
    rw [exec_eq, effect, if_pos hne, hnext]; rfl
  · have hlast : ¬ s.samp.bitIdx ≠ 7 := not_not.2 (Fin.ext hidx)
    rw [exec_eq, effect, if_neg hlast]; rfl

/-- Settles O23: the four rows are so by definition. -/
theorem paritySlotSamplesTheParityBit : Obligations.ParitySlotSamplesTheParityBit := fun _ _ =>
  ⟨rfl, rfl, rfl, rfl⟩

/-- The row a scan byte decodes to is `consume` of that byte (R77, R150). -/
theorem exec_of_decode_scanByte {b : Byte} {instr : Instr} (h : decode (.scanByte b) = .ok instr) (s : State) :
    exec instr s = .next (consume b s) := by
  cases h
  unfold consume
  cases classifyByte b <;> rfl

/-- The stop sample, with the validator's report in the terms of the sampler's fields (R72, R107, R130 to R132). -/
theorem exec_wtlClkLow (d : Bit) (s : State) :
    exec (.wtlClkLow d) s = .next
      (if (!s.samp.frmStart && d) = true then frameAccepted (s.samp.frameWord d) s
      else frameRejected (s.samp.frameWord d) s) := by
  rw [exec_eq, effect, Sampler.frameWord, frameIsValid_frameWordOf]

/-- Settles O24: the class of the frame word is that of its start and stop bits, and a valid frame runs the row of its
byte through `consume`. -/
theorem stopSampleCompletesTheFrame : Obligations.StopSampleCompletesTheFrame := by
  refine fun d s => ⟨rfl, fun hstart hstop instr hinstr => ?_, fun hinvalid => ?_⟩
  · refine ⟨_, _, exec_of_decode_scanByte hinstr _, exec_wtlClkLow d s, ?_⟩
    have hvalid : (!s.samp.frmStart && d) = true := by rw [hstart, hstop]; rfl
    rw [if_pos hvalid, frameAccepted, Sampler.frameWord, validate_frameWordOf, hvalid, State.afterValidFrame_eq,
      frameByte_frameWordOf]
    simp only [consume_cfg, consume_samp]
    rfl
  · have hnot : (!s.samp.frmStart && d) = false := by rcases hinvalid with h | h <;> simp [h]
    rw [exec_wtlClkLow, hnot, frameRejected_eq, Sampler.frameWord, validate_frameWordOf, hnot]
    rfl

/-- Settles O25: the count is tested before it is moved. -/
theorem gapCountsAndEnds : Obligations.GapCountsAndEnds := by
  refine fun c d s => ⟨fun hlast => ?_, fun hcount => ?_⟩
  · rw [exec_eq, effect, if_pos hlast]; rfl
  · rw [exec_eq, effect, if_neg hcount]; rfl

/-- Settles O26: the row answers the state it is given. -/
theorem haltedChangesNothing : Obligations.HaltedChangesNothing := fun _ _ _ => rfl

/-! ### Independence of the decoder -/

/-- The input that a step takes does not depend on the decoder (R100). -/
theorem takeStimulus_withDec (s : State) (d : Decoder) :
    takeStimulus (s.withDec d) = match takeStimulus s with
      | .hold t => .hold (t.withDec d)
      | .tick i t => .tick i (t.withDec d) := by
  rcases s with ⟨cfg, samp, dec, events, quiet, sync, inputs, freeIdx⟩
  cases inputs with
  | nil => rfl
  | cons x rest =>
    cases x with
    | poll i => rfl
    | cycle p =>
      rcases p with ⟨tick, rst, cancel, clk, data⟩
      cases rst <;> cases tick <;> rfl

/-- A byte gives no event of the sampler, the validator or the resynchronizer (R150). -/
theorem filter_not_ofDecoder_scanEvents (c : Cfg) (d : Decoder) (b : Byte) :
    (scanEvents c d b).filter (fun e => !e.ofDecoder) = [] :=
  List.filter_eq_nil_iff.2 fun e he => by simp [ofDecoder_of_mem_scanEvents he]

/-- The events of a transition that are not the decoder's do not depend on the decoder (R114). -/
theorem filter_not_ofDecoder_plainEvents (c : Cfg) (x : Sampler) (d e : Decoder) (l : Line) :
    (plainEvents c x d l).filter (fun ev => !ev.ofDecoder)
      = (plainEvents c x e l).filter (fun ev => !ev.ofDecoder) := by
  cases hx : x.sampState with
  | wtl =>
    simp only [plainEvents, hx]
    split
    · rfl
    · split <;> simp only [List.filter_cons, filter_not_ofDecoder_scanEvents, List.filter_nil]
  | _ => simp only [plainEvents, hx]

/-- Settles O39: both steps take the same input, and reset, cancel and the transition write the sampler from the sampler
alone. -/
theorem samplerIgnoresTheDecoder : Obligations.SamplerIgnoresTheDecoder := by
  intro s t d h
  obtain ⟨u, hu⟩ := stepNeverStops (s.withDec d)
  have htake := takeStimulus_withDec s d
  refine ⟨u, hu, ?_⟩
  rcases step_inv h with ⟨-, hhold, rfl⟩ | ⟨i, sync, -, htick, rfl⟩
  · rw [hhold] at htake
    rw [step_eq, htake] at hu
    cases hu
    refine ⟨rfl, rfl, rfl, fun hs => ?_⟩
    simp [State.holds, hhold] at hs
  · rw [htick] at htake
    obtain ⟨-, hhold, -⟩ | ⟨i', sync', -, htick', rfl⟩ := step_inv hu
    · cases htake.symm.trans hhold
    · cases htake.symm.trans htick'
      cases i.rst with
      | true => exact ⟨rfl, rfl, rfl, fun _ => rfl⟩
      | false =>
        cases i.cancel with
        | true => exact ⟨rfl, rfl, rfl, fun _ => rfl⟩
        | false => exact ⟨rfl, rfl, rfl, fun _ => filter_not_ofDecoder_plainEvents ..⟩

/-! ### Waits and counts over many polls -/

/-- A silent path along a sequence of samplers: each poll moves one to the next without an event. -/
theorem silentPath_of_steps {c : Cfg} (f : Nat → Sampler) {is : List Input} (hplain : ∀ i ∈ is, Plain i)
    (hstep : ∀ k < is.length, ∀ i ∈ is,
      sampNext c (f k) ⟨i.clk, i.data⟩ = f (k + 1) ∧ ∀ d, plainEvents c (f k) d ⟨i.clk, i.data⟩ = []) :
    SilentPath c (f 0) is (f is.length) := by
  induction is generalizing f with
  | nil => exact .nil _
  | cons i is ih =>
    obtain ⟨hnext, hevents⟩ := hstep 0 (Nat.succ_pos _) i List.mem_cons_self
    refine .cons (hplain i List.mem_cons_self) hevents (hnext ▸ ih (fun k => f (k + 1)) ?_ ?_)
    · exact fun j hj => hplain j (List.mem_cons_of_mem _ hj)
    · exact fun k hk j hj => hstep (k + 1) (Nat.succ_lt_succ hk) j (List.mem_cons_of_mem _ hj)

/-- The clock level that a state of the sampler waits through within a frame (R102 to R107, R112). -/
def WaitsThrough (st : SampState) (level : Bit) : Prop :=
  (st = .wsh ∨ st = .wbh ∨ st = .wph) ∧ level = false ∨ (st = .wbl ∨ st = .wpl ∨ st = .wtl) ∧ level = true

/-- A poll at that level changes nothing and emits nothing (R112). -/
theorem WaitsThrough.stays {c : Cfg} {x : Sampler} {l : Line} (h : WaitsThrough x.sampState l.clk) :
    sampNext c x l = x ∧ ∀ d, plainEvents c x d l = [] := by
  rcases h with ⟨hx | hx | hx, hl⟩ | ⟨hx | hx | hx, hl⟩ <;> simp [sampNext, plainEvents, hx, hl]

/-- Settles O53: every poll is silent and leaves the sampler where it is. -/
theorem midFrameWaitsAreUnbounded : Obligations.MidFrameWaitsAreUnbounded := by
  intro s is rest level hwait hin his
  have hpath : SilentPath s.cfg.raw s.samp is s.samp :=
    silentPath_of_steps (fun _ => s.samp) (fun i hi => (his i hi).1)
      fun _ _ i hi => WaitsThrough.stays ((his i hi).2 ▸ hwait)
  obtain ⟨t, hrun, -, hinputs, hsamp, hdec, htrace⟩ := hpath.run rfl rfl hin
  exact ⟨t, hrun, hsamp, hdec, hinputs, htrace⟩

/-- Polls with the clock HIGH that stay below the start budget are counted in silence (R101). -/
theorem silentPath_startBudget (c : Cfg) {x : Sampler} {is : List Input} (hx : x.sampState = .wsl)
    (his : ∀ i ∈ is, Plain i ∧ i.clk = true) (hbudget : x.startCnt + is.length ≤ c.startTimeout - 1) :
    SilentPath c x is { x with startCnt := x.startCnt + is.length } := by
  refine silentPath_of_steps (fun k => { x with startCnt := x.startCnt + k }) (fun i hi => (his i hi).1) ?_
  intro k hk i hi
  have hbelow : x.startCnt + k ≠ c.startTimeout - 1 := by omega
  simp [sampNext, plainEvents, hx, (his i hi).2, hbelow, Nat.add_assoc]

/-- The poll with the clock HIGH that finds the start budget at its limit reports the timeout and clears the budget
(R101, R201). -/
theorem transition_startTimeout {c : Cfg} {x : Sampler} {l : Line} (hx : x.sampState = .wsl) (hl : l.clk = true)
    (hlast : x.startCnt = c.startTimeout - 1) (d : Decoder) :
    sampNext c x l = { x with startCnt := 0 } ∧ decNext x d l = d ∧ plainEvents c x d l = [.startTimeout] := by
  simp [sampNext, decNext, acceptsFrame, plainEvents, hx, hl, hlast]

/-- Settles O54: all polls of the budget but the last are counted in silence, and the last one finds the count at its
limit. -/
theorem startTimeoutComesOnTheLastPollOfTheBudget : Obligations.StartTimeoutComesOnTheLastPollOfTheBudget := by
  intro s is rest hs hfresh hin his hlen
  obtain ⟨hbudget, -, -⟩ := s.cfg.budgets
  obtain rfl | ⟨early, last, rfl⟩ := List.eq_nil_or_concat' is
  · rw [← hlen] at hbudget
    cases hbudget
  · rw [List.length_append, List.length_singleton] at hlen ⊢
    rw [polls_append, List.append_assoc] at hin
    obtain ⟨hplain, hhigh⟩ := his last (by simp)
    have hlimit : early.length = s.cfg.raw.startTimeout - 1 := by omega
    have hcount : s.samp.startCnt + early.length = s.cfg.raw.startTimeout - 1 := by rw [hfresh, Nat.zero_add, hlimit]
    have hpath :=
      silentPath_startBudget s.cfg.raw hs (fun i hi => his i (List.mem_append_left _ hi)) hcount.le
    obtain ⟨t, hrun, hcfg, hinputs, hsamp, hdec, htrace⟩ := hpath.run rfl rfl hin
    obtain ⟨u, hrun', -, hinputs', hsamp', hdec', hevents', htrace'⟩ := run_one_plain hinputs hplain
    obtain ⟨hsampLast, hdecLast, heventsLast⟩ := transition_startTimeout
      (x := { s.samp with startCnt := s.samp.startCnt + early.length }) (l := ⟨last.clk, last.data⟩) hs hhigh hcount
      s.dec
    rw [hcfg, hsamp, hsampLast, ← hfresh] at hsamp'
    rw [hsamp, hdec, hdecLast] at hdec'
    rw [hcfg, hsamp, hdec, heventsLast] at hevents'
    refine ⟨u, (run_add hrun 1).trans hrun', hsamp', hdec', hinputs', ?_⟩
    rw [trace_add hrun, htrace, htrace', hevents', hlimit]

/-- Polls in GAP that stay below `P_GAP` are counted in silence, whatever the lines do (R108). -/
theorem silentPath_gap (c : Cfg) {x : Sampler} {is : List Input} (hx : x.sampState = .gap)
    (his : ∀ i ∈ is, Plain i) (hgap : x.gapCnt + is.length ≤ c.gap - 1) :
    SilentPath c x is { x with gapCnt := x.gapCnt + is.length } := by
  refine silentPath_of_steps (fun k => { x with gapCnt := x.gapCnt + k }) his ?_
  intro k hk i hi
  have hbelow : x.gapCnt + k ≠ c.gap - 1 := by omega
  simp [sampNext, plainEvents, hx, hbelow, Nat.add_assoc]

/-- The poll that finds the count of GAP at its limit leads to WSL in silence (R108). -/
theorem silentPath_gapEnd (c : Cfg) {x : Sampler} {i : Input} (hx : x.sampState = .gap) (hi : Plain i)
    (hlast : x.gapCnt = c.gap - 1) : SilentPath c x [i] { x with sampState := .wsl, startCnt := 0 } := by
  have hnext : sampNext c x ⟨i.clk, i.data⟩ = { x with sampState := .wsl, startCnt := 0 } := by
    simp [sampNext, hx, hlast]
  exact .cons hi (fun d => by simp [plainEvents, hx]) (hnext ▸ .nil _)

/-- Settles O55: a part of the polls that lacks the last one is counted in GAP, and the last one ends it. -/
theorem gapLastsExactlyItsPolls : Obligations.GapLastsExactlyItsPolls := by
  intro s is rest hs hfresh hgap hin his hlen
  refine ⟨fun k hk => ?_, ?_⟩
  · have hpath := silentPath_gap s.cfg.raw hs (fun i hi => his i (List.mem_of_mem_take hi))
      (show s.samp.gapCnt + (is.take k).length ≤ _ by rw [List.length_take]; omega)
    rw [← List.take_append_drop k is, polls_append, List.append_assoc] at hin
    obtain ⟨t, hrun, -, -, hsamp, -, -⟩ := hpath.run rfl rfl hin
    rw [List.length_take_of_le (Nat.le_of_lt hk)] at hrun
    exact ⟨t, hrun, by rw [hsamp]; exact hs⟩
  · obtain rfl | ⟨early, last, rfl⟩ := List.eq_nil_or_concat' is
    · rw [← hlen] at hgap
      cases hgap
    · rw [List.length_append, List.length_singleton] at hlen
      have hlimit : s.samp.gapCnt + early.length = s.cfg.raw.gap - 1 := by omega
      have hcounts := silentPath_gap s.cfg.raw hs (fun i hi => his i (List.mem_append_left _ hi)) hlimit.le
      have hpath := hcounts.append (silentPath_gapEnd s.cfg.raw hs (his last (by simp)) hlimit)
      obtain ⟨t, hrun, -, hinputs, hsamp, hdec, htrace⟩ := hpath.run rfl rfl hin
      exact ⟨t, hrun, by rw [hsamp], by rw [hsamp], hdec, hinputs, htrace⟩

/-! ### The steps before a frame completes -/

/-- A lower bound on the steps that come before the step that samples a stop bit: two for each slot still to come,
less one while the clock is LOW in a slot (R102 to R107). -/
def Sampler.stepsToStop (x : Sampler) : Nat :=
  match x.sampState with
  | .wsl => 20
  | .wsh => 19
  | .wbl => 2 * (9 - x.bitIdx.val)
  | .wbh => 2 * (9 - x.bitIdx.val) - 1
  | .wpl => 2
  | .wph => 1
  | .wtl => 0
  | .gap | .rsy | .hlt => 21

/-- The bound is nowhere above 21. -/
theorem Sampler.stepsToStop_le (x : Sampler) : x.stepsToStop ≤ 21 := by
  unfold stepsToStop
  split <;> omega

/-- A transition lowers the bound by at most one: no state is skipped on the way to the stop slot (R115). -/
theorem stepsToStop_sampNext (c : Cfg) (x : Sampler) (l : Line) :
    x.stepsToStop ≤ (sampNext c x l).stepsToStop + 1 := by
  rcases x with ⟨st, idx, startCnt, resyncCnt, gapCnt, frmStart, frmData, frmParity⟩
  rcases l with ⟨clk, data⟩
  cases st with
  | wbl =>
    cases clk with
    | true => exact Nat.le_succ _
    | false => simp only [sampNext, Sampler.stepsToStop, Bool.false_eq_true, if_false]; omega
  | wbh =>
    cases clk with
    | true =>
      by_cases hidx : idx = 7
      · simp [sampNext, Sampler.stepsToStop, hidx]
      · simp only [sampNext, Sampler.stepsToStop, if_true, hidx, if_false, nextBit_val hidx]; omega
    | false => exact Nat.le_succ _
  | wtl => exact Nat.zero_le _
  | _ => simp only [sampNext]; (repeat' split) <;> simp [Sampler.stepsToStop]

/-- A step lowers the bound by at most one: reset leads to WSL and cancel to HLT (R212, R230). -/
theorem stepsToStop_step {s t : State} (h : step s = .next t) : s.samp.stepsToStop ≤ t.samp.stepsToStop + 1 := by
  rcases step_inv h with ⟨-, -, rfl⟩ | ⟨i, sync, -, -, rfl⟩
  · exact Nat.le_succ _
  · cases i.rst with
    | true => exact s.samp.stepsToStop_le
    | false =>
      cases i.cancel with
      | true => exact s.samp.stepsToStop_le.trans (Nat.le_succ _)
      | false => exact stepsToStop_sampNext ..

/-- A cycle in which the block takes no step leaves the sampler (R38). -/
theorem samp_of_holds {s t : State} (hs : s.holds = true) (h : step s = .next t) : t.samp = s.samp := by
  rcases step_inv h with ⟨-, -, rfl⟩ | ⟨i, sync, -, htick, -⟩
  · rfl
  · simp [State.holds, htick] at hs

/-- At least as many steps as the bound says come before a step that reports a frame (R115). -/
theorem stepsToStop_le_of_frame {n k : Nat} {s : State} {evs : List Event} {f : FrameReport}
    (h : (trace n s)[k]? = some evs) (hf : .frame f ∈ evs) : s.samp.stepsToStop ≤ k := by
  induction n generalizing s k with
  | zero => simp at h
  | succ n ih =>
    obtain ⟨t, hstep⟩ := stepNeverStops s
    rw [trace_succ hstep] at h
    cases hs : s.holds with
    | true =>
      rw [hs] at h
      exact samp_of_holds hs hstep ▸ ih h
    | false =>
      rw [hs] at h
      cases k with
      | zero =>
        cases h
        obtain ⟨hwtl, -⟩ := (step_emission hs hstep).of_frame hf
        simp [Sampler.stepsToStop, hwtl]
      | succ k => exact (stepsToStop_step hstep).trans (Nat.succ_le_succ (ih h))

/-- Settles O58: in WSL the bound is 20. -/
theorem noFrameCompletesBeforeStep21 : Obligations.NoFrameCompletesBeforeStep21 := by
  intro s n k evs f hs h hf
  have hbound := stepsToStop_le_of_frame h hf
  rwa [Sampler.stepsToStop, hs] at hbound

end Sys2Proof.Machine
end

section
/-! PROOFS for spec/41_frame_validator.md: the byte, the validity and the parity of a frame word, and what the three
frame classes do with the byte. -/

namespace Sys2Proof.Machine

/-! ### The byte, the validity and the parity -/

/-- The OR-accumulation of R130 after its first `n` data bits. -/
def accumulateBits (f : FrameWord) (n : Nat) : Byte :=
  (List.range n).foldl (fun v i => v ||| ((bitWord (f.getLsbD (1 + i))).setWidth 8 <<< i)) 0x00#8

theorem accumulateBits_eight (f : FrameWord) : accumulateBits f 8 = accumulateByte f := rfl

theorem accumulateBits_succ (f : FrameWord) (n : Nat) :
    accumulateBits f (n + 1) = accumulateBits f n ||| ((bitWord (f.getLsbD (1 + n))).setWidth 8 <<< n) := by
  simp only [accumulateBits, List.range_succ, List.foldl_append, List.foldl_cons, List.foldl_nil]

/-- Only bit `n` of a data bit shifted to position `n` can be 1. -/
theorem shiftedBit_getLsbD (b : Bit) (n : Nat) {j : Nat} (hj : j < 8) :
    ((bitWord b).setWidth 8 <<< n).getLsbD j = (decide (j = n) && b) := by
  rw [BitVec.getLsbD_shiftLeft, BitVec.getLsbD_setWidth, BitVec.getLsbD_ofBool]
  rcases Nat.lt_trichotomy j n with h | rfl | h
  · simp [h, h.ne]
  · simp [hj]
  · have hsub : j - n ≠ 0 := by omega
    simp [h.ne', hsub]

/-- The first `n` data bits stand at their positions, and the other bits are 0. -/
theorem accumulateBits_getLsbD (f : FrameWord) (n : Nat) {j : Nat} (hj : j < 8) :
    (accumulateBits f n).getLsbD j = (decide (j < n) && f.getLsbD (1 + j)) := by
  induction n with
  | zero => simp [accumulateBits]
  | succ n ih =>
    rw [accumulateBits_succ, BitVec.getLsbD_or, ih, shiftedBit_getLsbD _ _ hj]
    by_cases h : j = n
    · subst h; simp
    · have hlt : j < n + 1 ↔ j < n := by omega
      simp only [h, hlt, decide_false, Bool.false_and, Bool.or_false]

/-- Bit `i` of the byte of a frame word is F[1+i] (R72). -/
theorem frameByte_getLsbD (f : FrameWord) {i : Nat} (hi : i < 8) : (frameByte f).getLsbD i = f.getLsbD (1 + i) := by
  simp [frameByte, hi]

/-- R130's two ways to write the byte are equivalent. -/
theorem frameByte_eq_accumulateByte (f : FrameWord) : frameByte f = accumulateByte f := by
  refine BitVec.eq_of_getLsbD_eq fun i hi => ?_
  rw [frameByte_getLsbD f hi, ← accumulateBits_eight, accumulateBits_getLsbD f 8 hi, decide_eq_true hi,
    Bool.true_and]

/-- The top bit of a word counts on its own (R13). -/
theorem popcount_succ {n : Nat} (v : BitVec (n + 1)) :
    popcount v = popcount (v.setWidth n) + (v.getLsbD n).toNat := by
  have hlow : (List.range n).filter (fun i => v.getLsbD i)
      = (List.range n).filter (fun i => (v.setWidth n).getLsbD i) :=
    List.filter_congr fun i hi => by simp [List.mem_range.1 hi]
  rw [popcount, List.range_succ, List.filter_append, List.length_append, hlow]
  cases h : v.getLsbD n <;> simp only [popcount, List.filter_cons, List.filter_nil, h] <;> rfl

/-- The ones of F[9:1] are those of the byte and the parity bit (R132). -/
theorem popcount_byteAndParity (f : FrameWord) :
    popcount (f.extractLsb' 1 9) = popcount (frameByte f) + (f.getLsbD 9).toNat := by
  have hbyte : (f.extractLsb' 1 9).setWidth 8 = frameByte f :=
    BitVec.setWidth_extractLsb'_of_le (by decide)
  rw [popcount_succ, hbyte, BitVec.getLsbD_extractLsb']
  simp

/-- Settles O28: the validator reports F[8:1], which is the OR-accumulation bit by bit. -/
theorem byteIsTheOrOfTheShiftedBits : Obligations.ByteIsTheOrOfTheShiftedBits := fun f =>
  ⟨frameByte_eq_accumulateByte f, rfl, fun _ => frameByte_getLsbD f⟩

/-- Settles O29: the parity rule counts the byte and the parity bit apart, and they are F[9:1]. -/
theorem validityAndParityOfAFrame : Obligations.ValidityAndParityOfAFrame := by
  refine fun f => ⟨?_, ?_⟩
  · simp only [validate, frameIsValid, Bool.and_eq_true, Bool.not_eq_true']
  · rw [popcount_byteAndParity]
    exact beq_iff_eq

/-- Settles O30: the validator's report on a frame word put together from its fields. -/
theorem everyByteValidatesToItself : Obligations.EveryByteValidatesToItself := fun v start par stop => by
  rw [validate_frameWordOf]
  exact ⟨rfl, rfl⟩

/-! ### The three classes -/

/-- FRAME_VALID, in the terms of its operands: the report, then the decoder's events of the byte (R107, R135, R136). -/
theorem exec_frameValid (p : Bit) (v : Byte) (s : State) :
    exec (.frameValid p v) s = .next
      { s with
        dec := scanNext s.dec v
        events := s.events ++ .frame
          { word := frameWordOf false v p true, value := v, valid := true
            parityOk := (popcount v + p.toNat) % 2 == 1 } :: scanEvents s.cfg.raw s.dec v
        samp :=
          if s.cfg.raw.gap = 0 then { s.samp with sampState := .wsl, startCnt := 0 }
          else { s.samp with sampState := .gap, gapCnt := 0 } } := by
  rw [exec_eq, effect, frameAccepted_eq, validate_frameWordOf, frameByte_frameWordOf]
  rfl

/-- Settles O31: a valid frame runs the row of its byte through `consume`, and a rejected one only reports. -/
theorem frameClassesRouteTheByte : Obligations.FrameClassesRouteTheByte := by
  refine fun s p stop v => ⟨fun instr hinstr => ?_, ?_, ?_⟩
  · refine ⟨_, _, exec_of_decode_scanByte hinstr _, exec_frameValid p v s, ?_⟩
    rw [consume_eq, State.emit_events, List.append_assoc]
    rfl
  · rw [exec_eq, effect, frameRejected_eq, validate_frameWordOf]
    rfl
  · rw [exec_eq, effect, frameRejected_eq, validate_frameWordOf]
    rfl

/-- Settles O32: the parity bit stands in the report alone. -/
theorem parityNeverGates : Obligations.ParityNeverGates := fun s p q v =>
  ⟨_, _, exec_frameValid p v s, exec_frameValid q v s, rfl, rfl, _, _, _, rfl, rfl, rfl, rfl, rfl, rfl, rfl, rfl⟩

end Sys2Proof.Machine
end

section
/-! PROOFS for spec/42_resynchronizer.md: the three rows of RSY, how RSY is entered, and how the resync window ends. -/

namespace Sys2Proof.Machine

/-! ### Rule by rule -/

/-- Both rows of RSY that do not see the idle state are the same poll (R140). -/
theorem exec_of_not_idle {d : Bit} {i : Instr} (h : i = .rsyClkLow d ∨ i = .rsyClkHighDataLow) (s : State) :
    exec i s = .next (resyncPoll s) := by
  rcases h with rfl | rfl <;> rfl

/-- Settles O27: the idle row is so by definition, and the poll of the other two tests the budget before it counts. -/
theorem resyncReportsIdleOrTimesOut : Obligations.ResyncReportsIdleOrTimesOut := by
  refine fun d s => ⟨rfl, fun i hi => ?_⟩
  rw [exec_of_not_idle hi, resyncPoll_eq]
  exact ⟨fun hlast => by rw [if_pos hlast], fun hcount => by rw [if_neg hcount]⟩

/-! ### Entering RSY -/

/-- A transition that enters RSY samples the stop bit of an invalid frame (R107, R141). -/
theorem invalidFrame_of_sampNext_rsy {c : Cfg} {x : Sampler} {l : Line} (h : (sampNext c x l).sampState = .rsy)
    (hx : x.sampState ≠ .rsy) :
    x.sampState = .wtl ∧ l.clk = false ∧ frameIsValid (x.frameWord l.data) = false := by
  cases hst : x.sampState with
  | rsy => exact absurd hst hx
  | wtl =>
    cases hclk : l.clk with
    | true => simp [sampNext, hst, hclk] at h
    | false =>
      cases hvalid : frameIsValid (x.frameWord l.data) with
      | true =>
        simp only [sampNext, hst, hclk, hvalid, Bool.false_eq_true, if_false, if_true] at h
        split at h <;> cases h
      | false => exact ⟨rfl, rfl, rfl⟩
  | _ =>
    simp only [sampNext, hst] at h
    (repeat' split at h) <;> simp_all

/-- The completion of an invalid frame is reported, and nothing else is (R107, R135). -/
theorem plainEvents_of_invalidFrame {c : Cfg} {x : Sampler} {l : Line} (hx : x.sampState = .wtl)
    (hl : l.clk = false) (hinvalid : frameIsValid (x.frameWord l.data) = false) (d : Decoder) :
    plainEvents c x d l = [.frame (validate (x.frameWord l.data))] := by
  simp [plainEvents, hx, hl, hinvalid]

/-- Settles O51: a cycle without a step leaves the sampler, reset leads to WSL and cancel to HLT, so RSY is entered by a
transition, which completes an invalid frame. -/
theorem resyncIsEnteredOnlyAfterAnInvalidFrame : Obligations.ResyncIsEnteredOnlyAfterAnInvalidFrame := by
  intro s t h ht hs
  rcases step_inv h with ⟨-, -, rfl⟩ | ⟨i, sync, -, -, rfl⟩
  · exact absurd ht hs
  · cases hrst : i.rst with
    | true => rw [hrst] at ht; cases ht
    | false =>
      cases hcancel : i.cancel with
      | true => rw [hrst, hcancel] at ht; cases ht
      | false =>
        rw [hrst, hcancel] at ht
        obtain ⟨hwtl, hclk, hinvalid⟩ := invalidFrame_of_sampNext_rsy ht hs
        have hevents := plainEvents_of_invalidFrame (c := s.cfg.raw) hwtl hclk hinvalid s.dec
        exact ⟨hwtl, _, hevents ▸ List.mem_singleton_self _, hinvalid⟩

/-! ### The resync window -/

/-- Polls in RSY that are not idle and stay below the resync budget are counted in silence (R140). -/
theorem silentPath_resyncBudget (c : Cfg) {x : Sampler} {is : List Input} (hx : x.sampState = .rsy)
    (hplain : ∀ i ∈ is, Plain i) (hnone : ∀ i ∈ is, (i.clk && i.data) = false)
    (hbudget : x.resyncCnt + is.length ≤ c.resyncTimeout - 1) :
    SilentPath c x is { x with resyncCnt := x.resyncCnt + is.length } := by
  refine silentPath_of_steps (fun k => { x with resyncCnt := x.resyncCnt + k }) hplain ?_
  intro k hk i hi
  have hbelow : x.resyncCnt + k ≠ c.resyncTimeout - 1 := by omega
  simp [sampNext, plainEvents, hx, hnone i hi, hbelow, Nat.add_assoc]

/-- A poll in RSY that is idle or finds the resync budget at its limit ends the resync and reports which of the two it
is (R140, R142). -/
theorem transition_resyncEnd {c : Cfg} {x : Sampler} {l : Line} (hx : x.sampState = .rsy)
    (hend : (l.clk && l.data) = true ∨ x.resyncCnt = c.resyncTimeout - 1) (d : Decoder) :
    sampNext c x l = { x with sampState := .wsl, startCnt := 0 } ∧ decNext x d l = d
      ∧ plainEvents c x d l = [.resync (l.clk && l.data)] := by
  cases hidle : l.clk && l.data with
  | true => simp [sampNext, decNext, acceptsFrame, plainEvents, hx, hidle]
  | false =>
    have hlast : x.resyncCnt = c.resyncTimeout - 1 := hend.resolve_left (by simp [hidle])
    simp [sampNext, decNext, acceptsFrame, plainEvents, hx, hidle, hlast]

/-- A silent path and one more poll, run by the block: the last poll alone moves the decoder and is observed. -/
theorem SilentPath.run_poll {s : State} {y : Sampler} {early : List Input} {last : Input} {rest : List Stimulus}
    (h : SilentPath s.cfg.raw s.samp early y) (hin : s.inputs = polls early ++ .poll last :: rest)
    (hlast : Plain last) :
    ∃ t, Machine.run (early.length + 1) s = .next t ∧ t.samp = sampNext s.cfg.raw y ⟨last.clk, last.data⟩
      ∧ t.dec = decNext y s.dec ⟨last.clk, last.data⟩
      ∧ trace (early.length + 1) s
        = List.replicate early.length [] ++ [plainEvents s.cfg.raw y s.dec ⟨last.clk, last.data⟩] := by
  obtain ⟨t, hrun, hcfg, hinputs, hsamp, hdec, htrace⟩ := h.run rfl rfl hin
  obtain ⟨u, hrun', -, -, hsamp', hdec', hevents', htrace'⟩ := run_one_plain hinputs hlast
  rw [hcfg, hsamp] at hsamp' hevents'
  rw [hsamp, hdec] at hdec'
  rw [hdec] at hevents'
  exact ⟨u, (run_add hrun 1).trans hrun', hsamp', hdec', by rw [trace_add hrun, htrace, htrace', hevents']⟩

/-- With a fresh budget in RSY, polls that are not idle and then one that is idle or the last of the window end the
resync on that last poll, which reports whether it is idle (R144). -/
theorem run_resyncWindow {s : State} {early : List Input} {last : Input} {rest : List Stimulus}
    (hs : s.samp.sampState = .rsy) (hfresh : s.samp.resyncCnt = 0)
    (hin : s.inputs = polls early ++ .poll last :: rest) (hplain : ∀ i ∈ early, Plain i) (hlast : Plain last)
    (hnone : ∀ i ∈ early, (i.clk && i.data) = false) (hwindow : early.length ≤ s.cfg.raw.resyncTimeout - 1)
    (hend : (last.clk && last.data) = true ∨ early.length = s.cfg.raw.resyncTimeout - 1) :
    ∃ t, run (early.length + 1) s = .next t ∧ t.samp.sampState = .wsl ∧ t.samp.startCnt = 0 ∧ t.dec = s.dec
      ∧ trace (early.length + 1) s = List.replicate early.length [] ++ [[.resync (last.clk && last.data)]] := by
  have hcount : s.samp.resyncCnt + early.length = early.length := by rw [hfresh, Nat.zero_add]
  have hpath := silentPath_resyncBudget s.cfg.raw hs hplain hnone (hcount.trans_le hwindow)
  rw [hcount] at hpath
  obtain ⟨t, hrun, hsamp, hdec, htrace⟩ := hpath.run_poll hin hlast
  obtain ⟨hsampEnd, hdecEnd, heventsEnd⟩ := transition_resyncEnd
    (x := { s.samp with resyncCnt := early.length }) (l := ⟨last.clk, last.data⟩) hs hend s.dec
  rw [hsampEnd] at hsamp
  rw [heventsEnd] at htrace
  exact ⟨t, hrun, by rw [hsamp], by rw [hsamp], hdec.trans hdecEnd, htrace⟩

/-- Settles O56: the polls before the first idle one, or all but the last when none is idle, are counted in silence, and
the poll after them ends the resync. -/
theorem resyncSucceedsIffIdleIsSeenInTheWindow : Obligations.ResyncSucceedsIffIdleIsSeenInTheWindow := by
  intro s is rest hs hfresh hin hplain hlen
  refine ⟨fun k i hk hclk hdata hfirst => ?_, fun hnone => ?_⟩
  · obtain ⟨hlt, rfl⟩ := List.getElem?_eq_some_iff.1 hk
    have hidle : (is[k].clk && is[k].data) = true := by rw [hclk, hdata]; rfl
    have htake : (is.take k).length = k := List.length_take_of_le hlt.le
    have hearly : ∀ i ∈ is.take k, (i.clk && i.data) = false := by
      intro i hi
      obtain ⟨j, hj, rfl⟩ := List.mem_take_iff_getElem.1 hi
      have hjk : j < k := by omega
      simpa using hfirst j _ hjk (List.getElem?_eq_getElem _)
    rw [← List.take_append_drop k is, List.drop_eq_getElem_cons hlt, polls_append, polls_cons, List.append_assoc,
      List.cons_append] at hin
    obtain ⟨t, hrun, hwsl, hstart, hdec, htrace⟩ := run_resyncWindow hs hfresh hin
      (fun i hi => hplain i (List.mem_of_mem_take hi)) (hplain _ (List.getElem_mem hlt)) hearly (by omega)
      (.inl hidle)
    rw [htake] at hrun htrace
    rw [hidle] at htrace
    exact ⟨t, hrun, hwsl, hstart, hdec, htrace⟩
  · obtain ⟨-, hbudget, -⟩ := s.cfg.budgets
    obtain rfl | ⟨early, last, rfl⟩ := List.eq_nil_or_concat' is
    · rw [← hlen] at hbudget
      cases hbudget
    · rw [List.length_append, List.length_singleton] at hlen ⊢
      rw [polls_append, polls_cons, polls_nil, List.append_assoc, List.cons_append] at hin
      have hnotIdle : ∀ i ∈ early ++ [last], (i.clk && i.data) = false := fun i hi => by simpa using hnone i hi
      have hlimit : early.length = s.cfg.raw.resyncTimeout - 1 := by omega
      obtain ⟨t, hrun, hwsl, hstart, hdec, htrace⟩ := run_resyncWindow hs hfresh hin
        (fun i hi => hplain i (List.mem_append_left _ hi)) (hplain last (by simp))
        (fun i hi => hnotIdle i (List.mem_append_left _ hi)) hlimit.le (.inr hlimit)
      rw [hnotIdle last (by simp)] at htrace
      exact ⟨t, hrun, hwsl, hstart, hdec, by rw [htrace, hlimit]⟩

end Sys2Proof.Machine
end

section
/-! PROOFS for spec/43_scan_code_fsm.md: the rows of the Scan-Code State Machine, the flag that nothing reads, and
what sequences of bytes give: the overflow and the Pause key. -/

namespace Sys2Proof.Machine

/-! ### Rule by rule -/

/-- 0xE0 and 0xF0 set their flag and append themselves, by `append` said once (R151, R153). -/
theorem exec_pfxExt (s : State) :
    exec .pfxExt s = .next
      { s with
        dec := appendNext { s.dec with ext := true } 0xE0#8
        events := s.events ++ if s.dec.plen.val < 8 then [] else [.overflow (s.dec.pend.toList ++ [0xE0#8])] } := by
  rw [exec_eq, effect, prefixExt, State.append_eq]
  rfl

theorem exec_pfxBreak (s : State) :
    exec .pfxBreak s = .next
      { s with
        dec := appendNext { s.dec with brk := true } 0xF0#8
        events := s.events ++ if s.dec.plen.val < 8 then [] else [.overflow (s.dec.pend.toList ++ [0xF0#8])] } := by
  rw [exec_eq, effect, prefixBreak, State.append_eq]
  rfl

/-- Settles O33: a buffer that is not full takes the byte, and a full one is reset with the flag just set. -/
theorem prefixAppendsOrOverflows : Obligations.PrefixAppendsOrOverflows := by
  refine fun s => ⟨fun hlt => ?_, fun hfull => ?_⟩
  · simp [exec_pfxExt, exec_pfxBreak, appendNext, hlt]
  · simp [exec_pfxExt, exec_pfxBreak, appendNext, hfull, Decoder.cleared]

/-- An 0xE1 leaves itself alone in the buffer (R152). -/
@[simp] theorem pending_scanNext_pause (d : Decoder) : (scanNext d 0xE1#8).pending = [0xE1#8] := by
  simp [scanNext, classifyByte, Decoder.pending, List.take_one, List.head?_eq_getElem?]

/-- Settles O34: the buffer is written at index 0 alone. -/
theorem pausePrefixRestartsTheBuffer : Obligations.PausePrefixRestartsTheBuffer := fun s =>
  ⟨_, rfl, pending_scanNext_pause s.dec, rfl, rfl, rfl,
    fun _ hpos hlt => Vector.getElem_set_ne (by decide) hlt hpos.ne, rfl⟩

/-- `lookup` reads the ROM of the namespace that the extended flag selects (R158, R180). -/
theorem Cfg.lookup_eq (c : Cfg) (b : Byte) (ext : Bit) :
    c.lookup b ext = if ext = true then Rom.read c.extRom b else Rom.read c.baseRom b := by
  cases ext <;> rfl

/-- Settles O35: the report of the key holds the looked-up word, and the rest is so by definition. -/
theorem terminalByteEmitsOneKeyEvent : Obligations.TerminalByteEmitsOneKeyEvent := by
  intro s b
  rw [← Cfg.lookup_eq]
  rfl

/-! ### The flag that nothing reads -/

/-- `dec_pause` changes nothing but itself in the decoder after an append (R155, R164). -/
theorem appendNext_withPause (d : Decoder) (p : Bit) (b : Byte) :
    ∃ q, appendNext { d with pause := p } b = { appendNext d b with pause := q } := by
  by_cases hlt : d.plen.val < 8
  · exact ⟨p, by simp only [appendNext, hlt, dite_true]⟩
  · exact ⟨false, by simp only [appendNext, hlt, dite_false]; rfl⟩

/-- `dec_pause` changes nothing but itself in the decoder after a byte (R164). -/
theorem scanNext_withPause (d : Decoder) (p : Bit) (b : Byte) :
    ∃ q, scanNext { d with pause := p } b = { scanNext d b with pause := q } := by
  unfold scanNext
  split
  · exact appendNext_withPause { d with ext := true } p b
  · exact ⟨true, rfl⟩
  · exact appendNext_withPause { d with brk := true } p b
  · exact ⟨false, rfl⟩

/-- `dec_pause` changes nothing but itself in the decoder after a transition (R164). -/
theorem decNext_withPause (x : Sampler) (d : Decoder) (l : Line) (p : Bit) :
    ∃ q, decNext x { d with pause := p } l = { decNext x d l with pause := q } := by
  unfold decNext
  split
  · exact scanNext_withPause ..
  · exact ⟨p, rfl⟩

/-- `dec_pause` changes no event of a transition (R164). -/
theorem plainEvents_withPause (c : Cfg) (x : Sampler) (d : Decoder) (l : Line) (p : Bit) :
    plainEvents c x { d with pause := p } l = plainEvents c x d l := rfl

/-- Settles O38: both steps take the same input, and reset, cancel and the transition carry at most the flag itself
over. -/
theorem pauseFlagIsNeverRead : Obligations.PauseFlagIsNeverRead := by
  intro s t p h
  obtain ⟨u, hu⟩ := stepNeverStops (s.withDec { s.dec with pause := p })
  have htake := takeStimulus_withDec s { s.dec with pause := p }
  suffices hflag : ∃ q, u = { t with dec := { t.dec with pause := q } } by
    obtain ⟨q, rfl⟩ := hflag
    exact ⟨q, hu⟩
  rcases step_inv h with ⟨-, hhold, rfl⟩ | ⟨i, sync, -, htick, rfl⟩
  · rw [hhold] at htake
    rw [step_eq, htake] at hu
    cases hu
    exact ⟨p, rfl⟩
  · rw [htick] at htake
    obtain ⟨-, hhold, -⟩ | ⟨i', sync', -, htick', rfl⟩ := step_inv hu
    · cases htake.symm.trans hhold
    · cases htake.symm.trans htick'
      cases i.rst with
      | true => exact ⟨false, rfl⟩
      | false =>
        cases i.cancel with
        | true => exact ⟨p, rfl⟩
        | false =>
          obtain ⟨q, hq⟩ := decNext_withPause s.samp s.dec ⟨i.clk, i.data⟩ p
          exact ⟨q, by simp [hq, plainEvents_withPause]⟩

/-! ### Sequences of bytes -/

/-- Bytes given one sequence after the other (R150). -/
theorem scanEventsAll_append (c : Cfg) (d : Decoder) (as bs : List Byte) :
    scanEventsAll c d (as ++ bs) = scanEventsAll c d as ++ scanEventsAll c (as.foldl scanNext d) bs := by
  induction as generalizing d with
  | nil => rfl
  | cons a as ih => rw [List.cons_append, scanEventsAll, scanEventsAll, ih, List.append_assoc, List.foldl_cons]

/-- A byte that is no prefix is TERMINAL (R77). -/
theorem classifyByte_of_not_isPrefix {b : Byte} (hb : isPrefix b = false) : classifyByte b = .terminal b := by
  simp only [isPrefix, Bool.or_eq_false_iff, beq_eq_false_iff_ne, and_assoc] at hb
  obtain ⟨hext, hpause, hbrk⟩ := hb
  exact classifyByte_of_ne hext hpause hbrk

/-- A byte that is no prefix clears the decoder (R154, R157). -/
theorem scanNext_terminal (d : Decoder) {b : Byte} (hb : isPrefix b = false) : scanNext d b = d.cleared := by
  rw [scanNext, classifyByte_of_not_isPrefix hb]

/-- A byte that is no prefix gives one key event (R154, R158 to R161). -/
theorem scanEvents_terminal (c : Cfg) (d : Decoder) {b : Byte} (hb : isPrefix b = false) :
    scanEvents c d b = [.key ⟨c.lookup b d.ext, b, directionOf d.brk, d.ext, d.rawBytes b⟩] := by
  rw [scanEvents, classifyByte_of_not_isPrefix hb]

/-- 0xE0 or 0xF0 joins a buffer that is not full and sets its flag alone (R151, R153, R155). -/
theorem scanNext_joins {d : Decoder} (h : d.plen.val < 8) {b : Byte} (hb : b = 0xE0#8 ∨ b = 0xF0#8) :
    (scanNext d b).pending = d.pending ++ [b] ∧ (scanNext d b).brk = (d.brk || b == 0xF0#8)
      ∧ (scanNext d b).ext = (d.ext || b == 0xE0#8) := by
  rcases hb with rfl | rfl
  · refine ⟨pending_appendNext (d := { d with ext := true }) h, ?_, ?_⟩ <;>
      simp [scanNext, classifyByte, appendNext, h]
  · refine ⟨pending_appendNext (d := { d with brk := true }) h, ?_, ?_⟩ <;>
      simp [scanNext, classifyByte, appendNext, h]

/-- 0xE0 or 0xF0 gives an event when the buffer is full, and none before (R155, R156). -/
theorem scanEvents_joins (c : Cfg) (d : Decoder) {b : Byte} (hb : b = 0xE0#8 ∨ b = 0xF0#8) :
    scanEvents c d b = if d.plen.val < 8 then [] else [.overflow (d.pend.toList ++ [b])] := by
  rcases hb with rfl | rfl <;> rfl

/-- A full buffer is its pending sequence (R33). -/
theorem pend_toList_of_full {d : Decoder} (h : d.plen.val = 8) : d.pend.toList = d.pending := by
  simp [Decoder.pending, h]

/-- 0xE0 or 0xF0 on a full buffer empties it (R156, R157). -/
theorem pending_scanNext_of_full {d : Decoder} (h : d.plen.val = 8) {b : Byte} (hb : b = 0xE0#8 ∨ b = 0xF0#8) :
    (scanNext d b).pending = [] := by
  rcases hb with rfl | rfl <;> simp [scanNext, classifyByte, appendNext, h]

/-- A run of 0xE0 and 0xF0 bytes that fits into the buffer joins it in silence and sets the flags of its bytes (R151,
R153, R155). -/
theorem scanNext_run_joins (c : Cfg) {bs : List Byte} (hbs : ∀ x ∈ bs, x = 0xE0#8 ∨ x = 0xF0#8) {d : Decoder}
    (hfit : d.plen.val + bs.length ≤ 8) :
    scanEventsAll c d bs = [] ∧ (bs.foldl scanNext d).pending = d.pending ++ bs
      ∧ (bs.foldl scanNext d).brk = (d.brk || bs.contains 0xF0#8)
      ∧ (bs.foldl scanNext d).ext = (d.ext || bs.contains 0xE0#8) := by
  induction bs generalizing d with
  | nil => simp [scanEventsAll]
  | cons b bs ih =>
    obtain ⟨hb, hrest⟩ := List.forall_mem_cons.1 hbs
    rw [List.length_cons] at hfit
    have hlt : d.plen.val < 8 := by omega
    obtain ⟨hpending, hbrk, hext⟩ := scanNext_joins hlt hb
    have hplen : (scanNext d b).plen.val = d.plen.val + 1 := by
      rw [← Decoder.pending_length, hpending, List.length_append, Decoder.pending_length, List.length_singleton]
    obtain ⟨hevents, hpendings, hbrks, hexts⟩ := ih hrest (d := scanNext d b) (by omega)
    refine ⟨?_, ?_, ?_, ?_⟩
    · rw [scanEventsAll, scanEvents_joins c d hb, if_pos hlt, hevents, List.nil_append]
    · rw [List.foldl_cons, hpendings, hpending, List.append_assoc, List.singleton_append]
    · rw [List.foldl_cons, hbrks, hbrk, List.contains_cons, Bool.or_assoc, BEq.comm]
    · rw [List.foldl_cons, hexts, hext, List.contains_cons, Bool.or_assoc, BEq.comm]

/-- A run of 0xE0 and 0xF0 bytes that fills the buffer and one more of them give an overflow with all of the bytes, and
leave an empty buffer (R156, R166). -/
theorem scanNext_run_overflows (c : Cfg) {bs : List Byte} {b : Byte} (hbs : ∀ x ∈ bs, x = 0xE0#8 ∨ x = 0xF0#8)
    (hb : b = 0xE0#8 ∨ b = 0xF0#8) {d : Decoder} (hfull : d.plen.val + bs.length = 8) :
    scanEventsAll c d (bs ++ [b]) = [.overflow (d.pending ++ (bs ++ [b]))]
      ∧ ((bs ++ [b]).foldl scanNext d).pending = [] := by
  obtain ⟨hevents, hpending, -, -⟩ := scanNext_run_joins c hbs hfull.le
  have hplen : (bs.foldl scanNext d).plen.val = 8 := by
    rw [← Decoder.pending_length, hpending, List.length_append, Decoder.pending_length, hfull]
  refine ⟨?_, ?_⟩
  · rw [scanEventsAll_append, hevents, List.nil_append, scanEventsAll, scanEvents_joins c _ hb,
      if_neg hplen.not_lt, pend_toList_of_full hplen, hpending, List.append_assoc]
    rfl
  · rw [List.foldl_append]
    exact pending_scanNext_of_full hplen hb

/-- A terminal byte gives its key event with the flags as they are (R154). -/
theorem scanEventsAll_terminal (c : Cfg) (d : Decoder) {b : Byte} (hb : isPrefix b = false) (rest : List Byte) :
    scanEventsAll c d (b :: rest) =
      .key ⟨c.lookup b d.ext, b, directionOf d.brk, d.ext, d.pending ++ [b]⟩ :: scanEventsAll c d.cleared rest := by
  rw [scanEventsAll, scanEvents_terminal c d hb, scanNext_terminal d hb]
  rfl

/-- A run of 0xE0 and 0xF0 bytes that fits and then a terminal byte give one key event, which the run makes extended or
a release, and clear the decoder (R154 to R161). -/
theorem scanEventsAll_key (c : Cfg) {bs : List Byte} {b : Byte} (hbs : ∀ x ∈ bs, x = 0xE0#8 ∨ x = 0xF0#8)
    (hb : isPrefix b = false) {d : Decoder} (hfit : d.plen.val + bs.length ≤ 8) (rest : List Byte) :
    scanEventsAll c d (bs ++ b :: rest) =
      .key ⟨c.lookup b (d.ext || bs.contains 0xE0#8), b, directionOf (d.brk || bs.contains 0xF0#8),
        d.ext || bs.contains 0xE0#8, d.pending ++ (bs ++ [b])⟩
        :: scanEventsAll c (bs.foldl scanNext d).cleared rest := by
  obtain ⟨hevents, hpending, hbrk, hext⟩ := scanNext_run_joins c hbs hfit
  rw [scanEventsAll_append, hevents, List.nil_append, scanEventsAll_terminal c _ hb, hpending, hbrk, hext,
    List.append_assoc]

/-- With nothing pending the pending sequence is empty (R33). -/
theorem Decoder.pending_of_plen_zero {d : Decoder} (h : d.plen = 0) : d.pending = [] :=
  List.length_eq_zero_iff.1 (by rw [Decoder.pending_length, h]; rfl)

/-- Settles O40: eight bytes fill the empty buffer in silence, and a ninth overflows or ends the sequence. -/
theorem overflowComesAtTheNinthPrefix : Obligations.OverflowComesAtTheNinthPrefix := by
  intro s bs b c hplen hlen hbs hb hc
  have hfull : s.dec.plen.val + bs.length = 8 := by rw [hplen, hlen]; rfl
  have hempty := Decoder.pending_of_plen_zero hplen
  obtain ⟨hsilent, -, -, -⟩ := scanNext_run_joins s.cfg.raw hbs hfull.le
  obtain ⟨hoverflow, hpending⟩ := scanNext_run_overflows s.cfg.raw hbs hb hfull
  have hkey := scanEventsAll_key s.cfg.raw hbs hc hfull.le []
  simp only [consumeAll_events, consumeAll_dec]
  refine ⟨?_, ?_, hpending, _, congrArg (s.events ++ ·) hkey, ?_, rfl⟩
  · rw [hsilent, List.append_nil]
  · rw [hoverflow, hempty, List.nil_append]
  · rw [hempty, List.nil_append]

/-- 0xE1 gives no event (R152). -/
theorem scanEventsAll_pause (c : Cfg) (d : Decoder) (bs : List Byte) :
    scanEventsAll c d (0xE1#8 :: bs) = scanEventsAll c (scanNext d 0xE1#8) bs := rfl

/-- Any number of 0xE1 bytes gives no event (R152, R166). -/
theorem scanEventsAll_replicate_pause (c : Cfg) (d : Decoder) (n : Nat) :
    scanEventsAll c d (List.replicate n 0xE1#8) = [] := by
  induction n generalizing d with
  | zero => rfl
  | succ n ih => exact ih _

/-- Settles O41: after an 0xE1 one byte is pending, so seven more fill the buffer and an eighth overflows. -/
theorem pausePrefixRestartsTheOverflowCount : Obligations.PausePrefixRestartsTheOverflowCount := by
  intro s bs n hlen hbs
  have hplen : (scanNext s.dec 0xE1#8).plen.val = 1 := rfl
  obtain ⟨early, last, rfl⟩ := (List.eq_nil_or_concat' bs).resolve_left (by rintro rfl; cases hlen)
  have hearly : early.length = 7 := by simpa using hlen
  have hfull : (scanNext s.dec 0xE1#8).plen.val + early.length = 8 := by rw [hplen, hearly]
  have hjoin : ∀ x ∈ early, x = 0xE0#8 ∨ x = 0xF0#8 := fun x hx => hbs x (List.mem_append_left _ hx)
  obtain ⟨hsilent, -, -, -⟩ := scanNext_run_joins s.cfg.raw hjoin hfull.le
  obtain ⟨hoverflow, -⟩ := scanNext_run_overflows s.cfg.raw hjoin (hbs last (by simp)) hfull
  refine ⟨?_, ?_, ?_⟩
  · rw [consumeAll_events, scanEventsAll_pause, List.take_left' hearly, hsilent, List.append_nil]
  · rw [consumeAll_events, scanEventsAll_pause, hoverflow, pending_scanNext_pause]
    rfl
  · rw [consumeAll_events, scanEventsAll_replicate_pause, List.append_nil]

/-- 0xE1 writes neither `dec_break` nor `dec_ext` (R152). -/
@[simp] theorem scanNext_pause_brk (d : Decoder) : (scanNext d 0xE1#8).brk = d.brk := rfl
@[simp] theorem scanNext_pause_ext (d : Decoder) : (scanNext d 0xE1#8).ext = d.ext := rfl

/-- An 0xF0 that fits and a terminal byte give the release of its key (R153, R154, R159). -/
theorem scanEventsAll_release (c : Cfg) {d : Decoder} (h : d.plen.val < 8) {b : Byte} (hb : isPrefix b = false)
    (rest : List Byte) :
    scanEventsAll c d (0xF0#8 :: b :: rest) =
      .key ⟨c.lookup b d.ext, b, .release, d.ext, d.pending ++ [0xF0#8, b]⟩
        :: scanEventsAll c (scanNext d 0xF0#8).cleared rest := by
  simpa [directionOf] using scanEventsAll_key c (bs := [0xF0#8]) (by simp) hb (d := d) h rest

/-- Settles O42: the sequence is [0xE1] 0x14, 0x77, [0xE1 0xF0] 0x14, [0xF0] 0x77, each ended by a terminal byte that
clears the decoder. -/
theorem pauseSequenceGivesFourKeyEvents : Obligations.PauseSequenceGivesFourKeyEvents := by
  intro s _ hbrk hext
  have hfits : ∀ d : Decoder, (scanNext d 0xE1#8).plen.val < 8 := fun _ => show 1 < 8 by decide
  have hempty : ∀ d : Decoder, d.cleared.plen.val < 8 := fun _ => show 0 < 8 by decide
  have h14 : isPrefix 0x14#8 = false := by decide
  have h77 : isPrefix 0x77#8 = false := by decide
  rw [consumeAll_events, scanEventsAll_pause, scanEventsAll_terminal _ _ h14, scanEventsAll_terminal _ _ h77,
    scanEventsAll_pause, scanEventsAll_release _ (hfits _) h14, scanEventsAll_release _ (hempty _) h77]
  simp [hbrk, hext, directionOf, Cfg.lookup_eq, scanEventsAll]

end Sys2Proof.Machine
end

section
/-! PROOFS for spec/44_scan_code_tables.md: the names of the three table entries that R181 fixes. -/

namespace Sys2Proof

open Machine

/-- The name of a key id that has one (R87). -/
theorem Cfg.keyName_of_nameOf {c : Cfg} (hk : KeyNames.wf 0x00#8 c.keyNames = true) {id : Byte} {name : String}
    (h : c.nameOf id = some name) (ext : Bit) (code : Byte) : c.keyName id ext code = some name := by
  rw [Cfg.keyName, if_pos (Cfg.ne_zero_of_nameOf hk h), h]

/-- The key id 0x00 is named by the fallback label of its byte (R81, R87). -/
@[simp] theorem Cfg.keyName_zero (c : Cfg) (ext : Bit) (code : Byte) :
    c.keyName 0x00#8 ext code = some (fallback ext code) := rfl

end Sys2Proof

namespace Sys2Proof.Machine

/-- Settles O43: a valid configuration names the two mapped entries and holds 0x00 at the third, whose label is the
fallback. -/
theorem sourceEntriesOfTheTables : Obligations.SourceEntriesOfTheTables := by
  intro v
  have hadm := (Cfg.wf_iff_admissible v.raw).1 v.ok
  refine ⟨Cfg.keyName_of_nameOf hadm.keyNames hadm.keyA _ _, Cfg.keyName_of_nameOf hadm.keyNames hadm.keyUp _ _, ?_⟩
  have hzero : v.raw.lookup 0x02#8 false = 0x00#8 := hadm.unmapped
  have hlabel : fallback false 0x02#8 = "UNKNOWN_02" := by decide
  rw [hzero, Cfg.keyName_zero, hlabel]

end Sys2Proof.Machine
end

section
/-! PROOFS for spec/60_exceptions.md: cancellation, the HALTED state it leads to, and the event lists of R209. -/

namespace Sys2Proof.Machine

/-! ### Cancellation and HALTED -/

section ToldPoll
variable {s : State} {i : Input} {rest : List Stimulus}

/-- A step on a told poll with cancel and without reset (R212). -/
theorem step_cancel (h : s.inputs = .poll i :: rest) (hrst : i.rst = false) (hcancel : i.cancel = true) :
    step s = .next
      { s with
        samp := { s.samp with sampState := .hlt }
        events := []
        quiet := Config.freePayload s.freeIdx
        inputs := rest
        freeIdx := s.freeIdx + 1 } := by
  rw [step_poll_effect h, instrOf_cancel hrst hcancel]
  rfl

/-- In HALTED a told poll without reset only uses up its stimulus: a cancel writes the state that is there, and the
transition writes nothing (R109, R213). -/
theorem step_halted (hs : s.samp.sampState = .hlt) (h : s.inputs = .poll i :: rest) (hrst : i.rst = false) :
    ∃ t, step s = .next t ∧ t.samp = s.samp ∧ t.dec = s.dec ∧ t.inputs = rest ∧ t.events = [] := by
  cases hcancel : i.cancel with
  | true =>
    have hsamp : { s.samp with sampState := .hlt } = s.samp := by rw [← hs]
    exact ⟨_, step_cancel h hrst hcancel, hsamp, rfl, rfl, rfl⟩
  | false =>
    refine ⟨_, step_plain h hrst hcancel, ?_, decNext_of_plainEvents_nil (c := s.cfg.raw) ?_, rfl, ?_⟩
    · simp only [sampNext, hs]
    · simp only [plainEvents, hs]
    · simp only [plainEvents, hs]

end ToldPoll

/-- Settles O12: the row goes to HLT, and a step with cancel and without reset runs it. -/
theorem cancelHaltsAndWritesNothingElse : Obligations.CancelHaltsAndWritesNothingElse :=
  ⟨fun _ _ _ => rfl, fun _ _ _ hrst hcancel h => ⟨_, step_cancel h hrst hcancel, rfl, rfl, rfl⟩⟩

/-- Settles O52: each poll leaves the block in the HALTED state it found, by induction on the polls. -/
theorem onlyResetLeavesHalted : Obligations.OnlyResetLeavesHalted := by
  intro s is rest hs hin hrst
  induction is generalizing s with
  | nil => exact ⟨s, rfl, rfl, rfl, hin, rfl⟩
  | cons i is ih =>
    obtain ⟨hi, his⟩ := List.forall_mem_cons.1 hrst
    obtain ⟨t, hstep, hsamp, hdec, hinputs, hevents⟩ := step_halted hs hin hi
    obtain ⟨u, hrun, hsamp', hdec', hinputs', htrace⟩ := ih t (hsamp ▸ hs) hinputs his
    refine ⟨u, (run_succ hstep _).trans hrun, hsamp'.trans hsamp, hdec'.trans hdec, hinputs', ?_⟩
    rw [List.length_cons, trace_succ hstep, holds_poll hin, hevents, htrace]
    rfl

/-! ### The event lists of R209 -/

/-- A frame with `valid` = 1 is of the class FRAME_VALID (R73, R131). -/
theorem classifyFrame_of_valid {f : FrameWord} (h : frameIsValid f = true) :
    classifyFrame f = .valid (f.getLsbD 9) (frameByte f) := by
  rw [frameIsValid, Bool.and_eq_true, Bool.not_eq_true'] at h
  obtain ⟨hstart, hstop⟩ := h
  rw [classifyFrame, if_neg (Bool.eq_false_iff.1 hstart), if_pos hstop]

/-- A frame with `valid` = 0 is of one of the two other classes (R73, R131). -/
theorem classifyFrame_of_invalid {f : FrameWord} (h : frameIsValid f = false) :
    (∃ stop, classifyFrame f = .badStart stop (f.getLsbD 9) (frameByte f))
      ∨ classifyFrame f = .badStop (f.getLsbD 9) (frameByte f) := by
  cases hstart : f.getLsbD 0 with
  | true => exact .inl ⟨_, by rw [classifyFrame, if_pos hstart]⟩
  | false =>
    have hstop : f.getLsbD 10 = false := by rwa [frameIsValid, hstart] at h
    exact .inr (by rw [classifyFrame, if_neg (Bool.eq_false_iff.1 hstart), if_neg (Bool.eq_false_iff.1 hstop)])

/-- With reset or cancel R209 admits the empty list only. -/
theorem EventsOfStep.of_control {s : State} {i : Input} (h : i.rst = true ∨ i.cancel = true) :
    EventsOfStep s i [] := by
  rw [EventsOfStep, if_pos h]

section Plain
variable {s : State} {i : Input} (hi : Plain i)
include hi

/-- Neither reset nor cancel is asserted in a plain input. -/
theorem Plain.not_control : ¬ (i.rst = true ∨ i.cancel = true) := by
  simp [hi.1, hi.2]

/-- R209 for a stop sample whose frame is invalid: the report alone. -/
theorem EventsOfStep.of_invalidFrame (hs : s.samp.sampState = .wtl) (hclk : i.clk = false)
    (hf : frameIsValid (s.samp.frameWord i.data) = false) :
    EventsOfStep s i [.frame (validate (s.samp.frameWord i.data))] := by
  rcases classifyFrame_of_invalid hf with ⟨stop, hclass⟩ | hclass <;>
    simp [EventsOfStep, hi.not_control, hs, hclk, hclass]

/-- R209 for a stop sample whose frame is valid: the report, and then what the byte gives by its class. -/
theorem EventsOfStep.of_validFrame (hs : s.samp.sampState = .wtl) (hclk : i.clk = false)
    (hf : frameIsValid (s.samp.frameWord i.data) = true) :
    EventsOfStep s i (.frame (validate (s.samp.frameWord i.data))
      :: scanEvents s.cfg.raw s.dec (frameByte (s.samp.frameWord i.data))) := by
  simp only [EventsOfStep, hi.not_control, if_false, hs, hclk, Bool.false_eq_true, classifyFrame_of_valid hf,
    scanEvents]
  have hfull : s.dec.plen.val < 8 ↔ s.dec.plen ≠ 8 := by omega
  cases hbyte : classifyByte (frameByte (s.samp.frameWord i.data)) with
  | pause => rfl
  | terminal b => exact ⟨_, rfl, rfl⟩
  | ext | brk =>
    by_cases h8 : s.dec.plen = 8
    · simp [h8]
    · simp [hfull, h8]

/-- R209 admits the events of every transition. -/
theorem EventsOfStep.of_plainEvents :
    EventsOfStep s i (plainEvents s.cfg.raw s.samp s.dec ⟨i.clk, i.data⟩) := by
  cases hs : s.samp.sampState with
  | wsl =>
    simp only [EventsOfStep, hi.not_control, if_false, hs, plainEvents]
    split
    · exact .inr rfl
    · exact .inl rfl
  | rsy =>
    simp only [EventsOfStep, hi.not_control, if_false, hs, plainEvents]
    split
    · exact .inr ⟨_, rfl⟩
    · split
      · exact .inr ⟨_, rfl⟩
      · exact .inl rfl
  | wtl =>
    cases hclk : i.clk with
    | true => simp [EventsOfStep, hi.not_control, hs, hclk, plainEvents]
    | false =>
      cases hf : frameIsValid (s.samp.frameWord i.data) with
      | true => simpa [plainEvents, hs, hf] using of_validFrame hi hs hclk hf
      | false => simpa [plainEvents, hs, hf] using of_invalidFrame hi hs hclk hf
  | _ => simp only [EventsOfStep, hi.not_control, if_false, hs, plainEvents]

end Plain

/-- Settles O46: RESET and CANCEL emit nothing, and a transition what its row of the table admits. -/
theorem eventListsOfEachStep : Obligations.EventListsOfEachStep := by
  intro s t i rest hin h
  cases hrst : i.rst with
  | true =>
    rw [step_poll_effect hin, instrOf_reset hrst] at h
    cases h
    exact .of_control (.inl hrst)
  | false =>
    cases hcancel : i.cancel with
    | true =>
      cases (step_cancel hin hrst hcancel).symm.trans h
      exact .of_control (.inr hcancel)
    | false =>
      cases (step_plain hin hrst hcancel).symm.trans h
      exact .of_plainEvents ⟨hrst, hcancel⟩

end Sys2Proof.Machine
end

section
/-! PROOFS for spec/70_reset_and_hazards.md: reset, and the recapture of a stop slot when there is no gap. -/

namespace Sys2Proof.Machine

/-! ### Reset -/

/-- Settles O10: the row answers `State.resetBlock`, whose values are those of the state after reset under any
configuration. -/
theorem resetRowWritesEveryField : Obligations.ResetRowWritesEveryField := fun _ _ _ _ => rfl

/-- A stimulus with reset is an input with reset, and taking it moves no flop, whether or not a cycle has a tick
(R38, R230). -/
theorem takeStimulus_of_reset {s : State} {rest : List Stimulus}
    (h : (∃ i : Input, i.rst = true ∧ s.inputs = .poll i :: rest)
      ∨ (∃ p : Pins, p.rst = true ∧ s.inputs = .cycle p :: rest)) :
    ∃ i, i.rst = true ∧ takeStimulus s = .tick i { s with inputs := rest } := by
  rcases h with ⟨i, hrst, hin⟩ | ⟨p, hrst, hin⟩
  · exact ⟨i, hrst, by simp only [takeStimulus, hin]⟩
  · exact ⟨⟨true, p.cancel, p.ps2Clk, p.ps2Data⟩, rfl, by simp only [takeStimulus, hin, hrst, if_true]⟩

/-- A step whose input has reset runs the row RESET, whatever the other inputs and the state are (R100, R230). -/
theorem step_reset {s t : State} {i : Input} (ht : takeStimulus s = .tick i t) (hrst : i.rst = true) :
    step s = .next (beginTick t).resetBlock := by
  rw [step_eq, ht]
  simp only [instrOf_reset hrst, exec_eq, effect]

/-- Settles O11: a poll and a cycle with reset both run the row RESET. -/
theorem resetWinsInEveryStep : Obligations.ResetWinsInEveryStep := by
  intro s rest h
  obtain ⟨i, hrst, ht⟩ := takeStimulus_of_reset h
  exact ⟨_, step_reset ht hrst, rfl, rfl, rfl, rfl, rfl, rfl, rfl⟩

/-! ### Stop-slot recapture -/

/-- Without a gap the stop sample of a valid frame leads to WSL at once (R107). -/
theorem sampNext_validStop {c : Cfg} {x : Sampler} (hgap : c.gap = 0) (hx : x.sampState = .wtl)
    (hstart : x.frmStart = false) : sampNext c x ⟨false, true⟩ = { x with sampState := .wsl, startCnt := 0 } := by
  have hvalid : frameIsValid (x.frameWord true) = true := by
    rw [Sampler.frameWord, frameIsValid_frameWordOf, hstart]
    rfl
  simp [sampNext, hx, hvalid, hgap]

/-- A LOW clock in WSL is taken as a start slot, with the data level as its start bit (R101). -/
theorem sampNext_startSlot {c : Cfg} {x : Sampler} (hx : x.sampState = .wsl) (d : Bit) :
    sampNext c x ⟨false, d⟩ = { x with frmStart := d, frmData := 0x00#8, startCnt := 0, sampState := .wsh } := by
  simp [sampNext, hx]

/-- Settles O60: the stop sample leads to WSL at once, and WSL takes the second LOW poll as a start slot. -/
theorem stopSlotIsRecapturedWithoutAGap : Obligations.StopSlotIsRecapturedWithoutAGap := by
  intro s i j rest hs hstart hgap hin hi hj hiclk hidata hjclk
  obtain ⟨t, hrun, hcfg, hinputs, hsamp, -⟩ := run_one_plain hin hi
  obtain ⟨u, hrun', -, -, hsamp', -⟩ := run_one_plain hinputs hj
  rw [hiclk, hidata, sampNext_validStop hgap hs hstart] at hsamp
  have hwsl : t.samp.sampState = .wsl := by rw [hsamp]
  rw [hjclk, sampNext_startSlot hwsl] at hsamp'
  exact ⟨u, (run_add hrun 1).trans hrun', by rw [hsamp'], by rw [hsamp'], by rw [hsamp']⟩

end Sys2Proof.Machine
end

section
/-! PROOFS for spec/30_encoding.md: the decoder and the encoder are inverse. A word that decodes is put together from
the fields it decodes to, and a row is encoded as its word; every well-formed instruction is the row of some word. -/

namespace Sys2Proof

/-! ### A word is put together from its fields -/

/-- A code that names a state is the code of that state (R74). -/
theorem SampState.code_of_mem_ofCode : ∀ c : StateCode, ∀ st ∈ SampState.ofCode c, st.code = c := by
  decide

/-- T = {samp_state[3:0], L[1], L[0]}, for every word (R76). -/
theorem transitionWord_fields :
    ∀ t : TransitionWord, t.extractLsb' 2 4 ++ bitWord (t.getLsbD 1) ++ bitWord (t.getLsbD 0) = t := by
  decide

/-- F = {stop, parity, data[7:0], start}, for every word (R72). -/
theorem frameWordOf_fields (f : FrameWord) :
    frameWordOf (f.getLsbD 0) (frameByte f) (f.getLsbD 9) (f.getLsbD 10) = f := by
  apply BitVec.eq_of_getLsbD_eq
  intro i hi
  simp only [frameWordOf, frameByte, BitVec.getLsbD_append, BitVec.getLsbD_ofBool, BitVec.getLsbD_extractLsb']
  interval_cases i <;> simp

/-- {rst, cancel, clk, data}, for every word (R89). -/
theorem Input.word_ofWord : ∀ w : InputWord, (Input.ofWord w).word = w := by
  decide

/-! ### A row is encoded as its word -/

/-- A transition row is encoded as the word of its state and sample (R76). -/
theorem encode_transitionInstr (st : SampState) (l : Line) :
    encode (transitionInstr st l) = .transition (transitionWord st l) := by
  rcases l with ⟨clk, data⟩
  cases st <;> cases clk <;> cases data <;> rfl

theorem wf_transitionInstr (st : SampState) (l : Line) : (transitionInstr st l).wf = true := by
  rcases l with ⟨clk, data⟩
  cases st <;> cases clk <;> cases data <;> rfl

/-- The class of a frame word keeps all its bits: those it does not hold, it fixes (R73). -/
theorem encode_classifyFrame (f : FrameWord) : encode (classifyFrame f).instr = .frame f := by
  conv => rhs; rw [← frameWordOf_fields f]
  rw [classifyFrame]
  split
  · next h0 => rw [h0]; rfl
  · next h0 =>
    split
    · next h10 => rw [Bool.eq_false_iff.2 h0, h10]; rfl
    · next h10 => rw [Bool.eq_false_iff.2 h0, Bool.eq_false_iff.2 h10]; rfl

theorem wf_frameInstr (k : FrameClass) : k.instr.wf = true := by
  cases k <;> rfl

/-- The class of a scan byte keeps the byte, and TERMINAL is no prefix byte (R77). -/
theorem encode_and_wf_classifyByte (b : Byte) :
    encode (classifyByte b).instr = .scanByte b ∧ (classifyByte b).instr.wf = true := by
  by_cases he : b = 0xE0#8
  · subst he; exact ⟨rfl, rfl⟩
  by_cases hp : b = 0xE1#8
  · subst hp; exact ⟨rfl, rfl⟩
  by_cases hb : b = 0xF0#8
  · subst hb; exact ⟨rfl, rfl⟩
  rw [classifyByte_of_ne he hp hb]
  exact ⟨rfl, by simp [ByteClass.instr, Instr.wf, isPrefix, he, hp, hb]⟩

/-- A control row is encoded as the word of its input (R89). -/
theorem encode_and_wf_of_controlInstr {i : Input} {instr : Instr} (h : controlInstr i = some instr) :
    encode instr = .control i.word ∧ instr.wf = true := by
  rcases i with ⟨rst, cancel, clk, data⟩
  cases rst
  · cases cancel <;> cases h
    cases clk <;> cases data <;> exact ⟨rfl, rfl⟩
  · cases h
    exact ⟨rfl, rfl⟩

/-! ### From the word to the instruction and back -/

/-- A transition word that decodes is the word of a state and a sample, and decodes to their row (R76). -/
theorem decodeTransition_eq_ok {t : TransitionWord} {i : Instr} (h : decodeTransition t = .ok i) :
    ∃ st l, t = transitionWord st l ∧ i = transitionInstr st l := by
  unfold decodeTransition at h
  split at h
  · next st hst =>
    cases h
    refine ⟨st, _, ?_, rfl⟩
    rw [transitionWord, SampState.code_of_mem_ofCode _ st hst, transitionWord_fields]
  · cases h

/-- A control word that decodes spells an input with RESET or CANCEL (R89). -/
theorem decodeControl_eq_ok {w : InputWord} {i : Instr} (h : decodeControl w = .ok i) :
    controlInstr (Input.ofWord w) = some i := by
  unfold decodeControl at h
  split at h <;> cases h
  assumption

/-- Settles O2, format by format: the row a word decodes to is encoded as the word put together from its fields. -/
theorem encodeOfDecodeIsTheWord : Obligations.EncodeOfDecodeIsTheWord := by
  intro c i h
  cases c with
  | transition t =>
    obtain ⟨st, l, rfl, rfl⟩ := decodeTransition_eq_ok h
    exact ⟨encode_transitionInstr st l, wf_transitionInstr st l⟩
  | frame f =>
    cases h
    exact ⟨encode_classifyFrame f, wf_frameInstr _⟩
  | scanByte b =>
    cases h
    exact encode_and_wf_classifyByte b
  | control w =>
    have hword := encode_and_wf_of_controlInstr (decodeControl_eq_ok h)
    rwa [Input.word_ofWord] at hword

/-! ### Every well-formed instruction is the row of a word -/

/-- A frame word decodes by its start and stop bits (R73). -/
theorem decode_frameWordOf (start : Bit) (v : Byte) (parity stop : Bit) :
    decode (.frame (frameWordOf start v parity stop)) = .ok
      (if start then FrameClass.badStart stop parity v
        else if stop then .valid parity v else .badStop parity v).instr := by
  rw [decode, classifyFrame_frameWordOf]

/-- A byte that TERMINAL may hold decodes to it (R77). -/
theorem decode_terminal {b : Byte} (h : (Instr.terminal b).wf = true) :
    decode (.scanByte b) = .ok (.terminal b) := by
  simp only [Instr.wf, isPrefix, Bool.not_eq_true', Bool.or_eq_false_iff, beq_eq_false_iff_ne] at h
  obtain ⟨⟨he, hp⟩, hb⟩ := h
  rw [decode, classifyByte_of_ne he hp hb, ByteClass.instr]

/-- The word of an input with RESET or CANCEL decodes to that row (R89). -/
theorem decode_inputWord {i : Input} {instr : Instr} (h : controlInstr i = some instr) :
    decode (.control i.word) = .ok instr := by
  rw [decode, decodeControl, Input.ofWord_word, h]

/-- Every row of the table is reached, with any operands that are well-formed. -/
theorem exists_decode_eq (i : Instr) (h : i.wf = true) : ∃ c, decode c = .ok i := by
  cases i with
  | wslClkLow d => exact ⟨_, decode_transitionWord .wsl ⟨false, d⟩⟩
  | wslClkHigh d => exact ⟨_, decode_transitionWord .wsl ⟨true, d⟩⟩
  | wshClkHigh d => exact ⟨_, decode_transitionWord .wsh ⟨true, d⟩⟩
  | wshClkLow d => exact ⟨_, decode_transitionWord .wsh ⟨false, d⟩⟩
  | wblClkLow d => exact ⟨_, decode_transitionWord .wbl ⟨false, d⟩⟩
  | wblClkHigh d => exact ⟨_, decode_transitionWord .wbl ⟨true, d⟩⟩
  | wbhClkHigh d => exact ⟨_, decode_transitionWord .wbh ⟨true, d⟩⟩
  | wbhClkLow d => exact ⟨_, decode_transitionWord .wbh ⟨false, d⟩⟩
  | wplClkLow d => exact ⟨_, decode_transitionWord .wpl ⟨false, d⟩⟩
  | wplClkHigh d => exact ⟨_, decode_transitionWord .wpl ⟨true, d⟩⟩
  | wphClkHigh d => exact ⟨_, decode_transitionWord .wph ⟨true, d⟩⟩
  | wphClkLow d => exact ⟨_, decode_transitionWord .wph ⟨false, d⟩⟩
  | wtlClkLow d => exact ⟨_, decode_transitionWord .wtl ⟨false, d⟩⟩
  | wtlClkHigh d => exact ⟨_, decode_transitionWord .wtl ⟨true, d⟩⟩
  | gapAny c d => exact ⟨_, decode_transitionWord .gap ⟨c, d⟩⟩
  | rsyIdle => exact ⟨_, decode_transitionWord .rsy ⟨true, true⟩⟩
  | rsyClkLow d => exact ⟨_, decode_transitionWord .rsy ⟨false, d⟩⟩
  | rsyClkHighDataLow => exact ⟨_, decode_transitionWord .rsy ⟨true, false⟩⟩
  | hltAny c d => exact ⟨_, decode_transitionWord .hlt ⟨c, d⟩⟩
  | frameValid p v => exact ⟨_, decode_frameWordOf false v p true⟩
  | frameBadStart t p v => exact ⟨_, decode_frameWordOf true v p t⟩
  | frameBadStop p v => exact ⟨_, decode_frameWordOf false v p false⟩
  | pfxExt => exact ⟨.scanByte 0xE0#8, rfl⟩
  | pfxPause => exact ⟨.scanByte 0xE1#8, rfl⟩
  | pfxBreak => exact ⟨.scanByte 0xF0#8, rfl⟩
  | terminal b => exact ⟨_, decode_terminal h⟩
  | reset k c d => exact ⟨_, decode_inputWord (i := ⟨true, k, c, d⟩) rfl⟩
  | cancel c d => exact ⟨_, decode_inputWord (i := ⟨false, true, c, d⟩) rfl⟩

/-- Settles O1: some word decodes to the instruction, and by O2 that word is the instruction's encoding. -/
theorem decodeOfEncodeIsTheInstruction : Obligations.DecodeOfEncodeIsTheInstruction := by
  intro i h
  obtain ⟨c, hc⟩ := exists_decode_eq i h
  rwa [(encodeOfDecodeIsTheWord c i hc).1]

/-- Settles O7: each word is put together from the fields its row names. -/
theorem specWordsDecode : Obligations.SpecWordsDecode :=
  ⟨decode_transitionWord .wsl ⟨false, true⟩, decode_transitionWord .wbl ⟨true, false⟩,
    decode_transitionWord .rsy ⟨true, true⟩, decode_frameWordOf false 0x1C#8 false true,
    decode_frameWordOf true 0x1C#8 false true, decode_terminal rfl,
    decode_inputWord (i := ⟨true, false, true, true⟩) rfl,
    decode_inputWord (i := ⟨false, true, true, true⟩) rfl⟩

end Sys2Proof
end
